-- ==== Sys2Proof/Word.lean ====
section
/-! DEFINITION. Word.lean: the bit widths of the spec (spec/00_scope.md R8, R9). -/

namespace Sys2Proof

/-- One byte of a byte string (R10). -/
abbrev Byte := BitVec 8

/-- A host-bus word, an operand register, a command word (R8: "Host data bus: 32 bits"). -/
abbrev Word := BitVec 32

/-- One 28-bit limb register of `h` or `r` (R8, R35). -/
abbrev Limb := BitVec 28

/-- A byte string `B[n]` of any length (R10). -/
abbrev Bytes := List Byte

end Sys2Proof
end

