-- ==== Sys2Proof/Syntax.lean ====
section
/-! DEFINITION. Syntax.lean: the seven commands (spec/30_encoding.md R93) and the fields of their one format (R90). -/

namespace Sys2Proof

/-- The commands: one constructor per row of spec/opcode_table.json. Every operand but ZM is implicit (R91). -/
inductive Instr where
  /-- P_INIT: `init(key)`, 40_poly1305.md R120. -/
  | pInit
  /-- P_UPDATE: `update(data)`, R125. -/
  | pUpdate
  /-- P_FINAL: `final() -> tag`, R130. -/
  | pFinal
  /-- P_VERIFY: `verify(computedTag, receivedTag)`, R135. -/
  | pVerify
  /-- A_ENCRYPT: 41_aead.md R160. -/
  | aEncrypt
  /-- A_DECRYPT: R170. -/
  | aDecrypt
  /-- WIPE (`zm = false`) and WIPE.ZM (`zm = true`): 42_maintenance.md R190. -/
  | wipe (zm : Bool)
  deriving DecidableEq, Repr

/-- The three fields of a CMD32 word (R90), before anything is checked. -/
structure Cmd32 where
  /-- bits 7:0 -/
  op : BitVec 8
  /-- bit 8 -/
  zm : Bool
  /-- bits 31:9 -/
  rsv : BitVec 23
  deriving DecidableEq, Repr

end Sys2Proof
end

