-- ==== Sys2Proof/WellFormed.lean ====
section
/-! DEFINITION. WellFormed.lean: which CMD32 field values make a legal command word (spec/30_encoding.md R90, R94).
A term of `Instr` has no field that could be out of range (ZM is one Bool), so the checks are on the fields. -/

namespace Sys2Proof

/-- The operation codes of the opcode map (R93). -/
def assignedOps : List (BitVec 8) := [0x01#8, 0x02#8, 0x03#8, 0x04#8, 0x10#8, 0x11#8, 0x1F#8]

namespace Cmd32

/-- R94: "OP ∈ {0x00, 0x05..0x0F, 0x12..0x1E, 0x20..0xFF}" is illegal. -/
def opOk (c : Cmd32) : Bool := assignedOps.contains c.op

/-- R94: "any word with RSV ≠ 0" is illegal. -/
def rsvOk (c : Cmd32) : Bool := c.rsv == 0#23

/-- R94: "any word with ZM = 1 and OP ≠ 0x1F" is illegal. -/
def zmOk (c : Cmd32) : Bool := !c.zm || c.op == 0x1F#8

/-- The fields of a legal command word. -/
def wellFormed (c : Cmd32) : Bool := c.opOk && c.rsvOk && c.zmOk

end Cmd32

end Sys2Proof
end

