-- ==== Sys2Proof/Decode.lean ====
section
/-! DEFINITION. Decode.lean: the total decoder of 32-bit command words, the opcode table it must agree with, and
the encoder (spec/30_encoding.md R90 to R95). -/

namespace Sys2Proof

/-- Why a word is no command (R94). Each completes with error ILLEGAL_CMD. -/
inductive IllegalWord where
  /-- RSV ≠ 0 -/
  | reservedBits
  /-- an OP of no row -/
  | unassignedOp
  /-- ZM = 1 and OP ≠ 0x1F -/
  | zmNotWipe
  deriving DecidableEq, Repr

/-- The fields of a word: OP in bits 7:0, ZM in bit 8, RSV in bits 31:9 (R90). -/
def Cmd32.ofWord (w : Word) : Cmd32 :=
  { op := w.extractLsb' 0 8, zm := w.getLsbD 8, rsv := w.extractLsb' 9 23 }

/-- A field's bits placed in a word from bit `lo` on. -/
def fieldAt {n : Nat} (lo : Nat) (x : BitVec n) : Word := x.setWidth 32 <<< lo

/-- The word of some fields (R90). -/
def Cmd32.toWord (c : Cmd32) : Word := fieldAt 9 c.rsv ||| fieldAt 8 (BitVec.ofBool c.zm) ||| fieldAt 0 c.op

/-- The command an operation code names (R93); `zm` is read by WIPE only. -/
def instrOfOp (op : BitVec 8) (zm : Bool) : Option Instr :=
  if op = 0x01#8 then some .pInit
  else if op = 0x02#8 then some .pUpdate
  else if op = 0x03#8 then some .pFinal
  else if op = 0x04#8 then some .pVerify
  else if op = 0x10#8 then some .aEncrypt
  else if op = 0x11#8 then some .aDecrypt
  else if op = 0x1F#8 then some (.wipe zm)
  else none

/-- Decoding is total: "every 32-bit word decodes to one command or to illegal" (R92). -/
def decode (w : Word) : Except IllegalWord Instr :=
  let c := Cmd32.ofWord w
  if c.rsv ≠ 0#23 then .error .reservedBits
  else match instrOfOp c.op c.zm with
    | none => .error .unassignedOp
    | some i => if c.zm ∧ c.op ≠ 0x1F#8 then .error .zmNotWipe else .ok i

/-- The fields of a command's word (R93; `enc` of R98). -/
def Instr.fields : Instr → Cmd32
  | .pInit => { op := 0x01#8, zm := false, rsv := 0#23 }
  | .pUpdate => { op := 0x02#8, zm := false, rsv := 0#23 }
  | .pFinal => { op := 0x03#8, zm := false, rsv := 0#23 }
  | .pVerify => { op := 0x04#8, zm := false, rsv := 0#23 }
  | .aEncrypt => { op := 0x10#8, zm := false, rsv := 0#23 }
  | .aDecrypt => { op := 0x11#8, zm := false, rsv := 0#23 }
  | .wipe zm => { op := 0x1F#8, zm := zm, rsv := 0#23 }

/-- An instruction is well formed when its word's fields are. -/
def Instr.wellFormed (i : Instr) : Bool := i.fields.wellFormed

/-- The word of a command. -/
def encode (i : Instr) : Word := i.fields.toWord

/-- One row of the opcode map (R93): a word `w` matches it when `w &&& mask = pattern`. -/
structure OpcodeRow where
  mnemonic : String
  pattern : Word
  mask : Word
  deriving DecidableEq, Repr

/-- "The complete opcode map" (R93), as the table writes it. The decoder is not written from it, but held against it. -/
def opcodeTable : List OpcodeRow :=
  [ { mnemonic := "P_INIT", pattern := 0x00000001#32, mask := 0xFFFFFFFF#32 },
    { mnemonic := "P_UPDATE", pattern := 0x00000002#32, mask := 0xFFFFFFFF#32 },
    { mnemonic := "P_FINAL", pattern := 0x00000003#32, mask := 0xFFFFFFFF#32 },
    { mnemonic := "P_VERIFY", pattern := 0x00000004#32, mask := 0xFFFFFFFF#32 },
    { mnemonic := "A_ENCRYPT", pattern := 0x00000010#32, mask := 0xFFFFFFFF#32 },
    { mnemonic := "A_DECRYPT", pattern := 0x00000011#32, mask := 0xFFFFFFFF#32 },
    { mnemonic := "WIPE", pattern := 0x0000001F#32, mask := 0xFFFFFEFF#32 } ]

def OpcodeRow.matchesWord (row : OpcodeRow) (w : Word) : Bool := w &&& row.mask == row.pattern

/-- The rows a word matches. R92: the word is legal "when exactly one row of the table … matches it". -/
def matchingRows (w : Word) : List OpcodeRow := opcodeTable.filter (·.matchesWord w)

/-- The table's name of a command's row. -/
def Instr.mnemonic : Instr → String
  | .pInit => "P_INIT"
  | .pUpdate => "P_UPDATE"
  | .pFinal => "P_FINAL"
  | .pVerify => "P_VERIFY"
  | .aEncrypt => "A_ENCRYPT"
  | .aDecrypt => "A_DECRYPT"
  | .wipe _ => "WIPE"

/-- The command word that bits numbered as the opcode table numbers them make: one 32-bit word, bit 0 least
significant, every bit from `nbits` up 0. -/
def tableWord (nbits w : Nat) : Word := BitVec.ofNat 32 (w % 2 ^ nbits)

/-- What the decoder reads from a row's bits. -/
def decodeTableWord (nbits w : Nat) : Option Instr := (decode (tableWord nbits w)).toOption

end Sys2Proof
end

