-- ==== Sys2Proof/Machine/Bytes.lean ====
section
/-! DEFINITION. Bytes.lean: the byte-string primitives of spec/00_scope.md R10 and R13, and the word/byte order of
spec/20_memory.md R62. -/

namespace Sys2Proof.Machine

/-- `le_int(x) = Σ_i x[i]·256^i` (R10). -/
def leInt : Bytes → Nat
  | [] => 0
  | b :: x => b.toNat + 256 * leInt x

/-- `le_bytes(v, n)`: the n bytes of v mod 256^n, lowest first (R10). -/
def leBytes : Nat → Nat → Bytes
  | _, 0 => []
  | v, n + 1 => BitVec.ofNat 8 v :: leBytes (v / 256) n

/-- `x[a:b]`: bytes a up to b − 1 (R10). -/
def slice (x : Bytes) (a b : Nat) : Bytes := (x.drop a).take (b - a)

/-- `zeros(n)` (R10). -/
def zeros (n : Nat) : Bytes := List.replicate n 0#8

/-- `pad16(x) = zeros((16 − len(x) mod 16) mod 16)` (R10). -/
def pad16 (x : Bytes) : Bytes := zeros ((16 - x.length % 16) % 16)

/-- `xor(x, y)`: bytewise XOR of two strings of equal length (R10). -/
def xorBytes (x y : Bytes) : Bytes := List.zipWith (· ^^^ ·) x y

/-- `ct_eq(a, b)`: an accumulated XOR-OR over every byte, compared with 0 at the end (R13). -/
def ctEq (a b : Bytes) : Bool := (xorBytes a b).foldl (· ||| ·) 0#8 == 0#8

/-- Byte `k` of a group of words: byte 4i + j is bits [8j+7 : 8j] of word i (R30 to R34, R62). -/
def wordsByte {n : Nat} (v : Vector Word n) (k : Nat) : Byte :=
  (v[k / 4]?.getD 0#32).extractLsb' (8 * (k % 4)) 8

/-- The `m` bytes of a group of words. -/
def bytesOfWords {n : Nat} (m : Nat) (v : Vector Word n) : Vector Byte m :=
  Vector.ofFn fun k => wordsByte v k.val

/-- The `n` words of a byte string, each little-endian. -/
def wordsOfBytes (n : Nat) (x : Bytes) : Vector Word n :=
  Vector.ofFn fun i => BitVec.ofNat 32 (leInt (slice x (4 * i.val) (4 * i.val + 4)))

end Sys2Proof.Machine
end

