-- ==== Sys2Proof/Config.lean ====
section
/-! DEFINITION. Config.lean: what this hardware fixes, and the values its spec leaves open. -/

namespace Sys2Proof

/-- The external stream cipher's block function `KS(key[32], nonce[12], counter:u32) -> 64 bytes` (R7, R150). -/
abbrev Keystream := Vector Byte 32 → Vector Byte 12 → BitVec 32 → Vector Byte 64

namespace Config

/-- The ID register's constant (10_state.md R22). -/
def idWord : Word := 0x13050100#32

/-- `MBUF_BYTES` as the machine comes out of reset: the spec's default (R7, D4).
`State.mbufBytes` holds the parameter, so a statement about every state speaks of every size (log 2). -/
def mbufBytes : Nat := 4096

/-- The register region's length: the MBUF region starts at window offset 0x1000 (20_memory.md R60). -/
def registerBytes : Nat := 0x1000

/-- FREE VALUE. `ENGINE_BASE`, the host address of window offset 0: OPEN, platform-defined (R7, D3; log 9). -/
opaque engineBase : Nat

/-- FREE VALUE. The parameter `KS`: OPEN, a total deterministic function (R7, D32; log 3). -/
opaque keystream : Keystream

/-- FREE VALUE. `ksFail n` is the n-th draw of `ks_fail`: true, that request fails (R150, D21; log 4). -/
opaque ksFail : Nat → Bool

/-- FREE VALUE. `mbufByte e o` is what MBUF byte `o` holds after reset number `e`, until it is written
(20_memory.md R66, 70_reset_and_hazards.md R230: "A model makes each byte a draw"; log 1). -/
opaque mbufByte : Nat → Nat → Byte

end Config

end Sys2Proof
end

