-- ==== Sys2Proof/Machine/State.lean ====
section
/-! DEFINITION. State.lean: everything the spec gives the machine (spec/10_state.md R20 to R45, 20_memory.md R60),
as plain data, the outside world's inputs and answers, the reasons a step can stop, and reset. -/

namespace Sys2Proof.Machine

/-- The Poly1305 unit's life cycle (R35, R37). STATUS.PSTATE "value 3 never occurs" (R23): there is no fourth. -/
inductive PState where
  | empty
  | active
  | finalized
  deriving DecidableEq, Repr

/-- The error codes (60_exceptions.md R200). Codes 8 to 15 are "never produced" and have no constructor. -/
inductive ErrCode where
  | noError
  | illegalCmd
  | invalidArgument
  | invalidKeyLength
  | sequence
  | authenticationFailure
  | underlyingPrimitiveFailure
  | allocationFailure
  deriving DecidableEq, Repr

/-- The three bits of IRQ_EN (R24) or IRQ_STAT (R25); the reserved bits read 0 and are not held. -/
structure IrqBits where
  /-- bit 0 -/
  done : Bool
  /-- bit 1 -/
  err : Bool
  /-- bit 2 -/
  werr : Bool
  deriving DecidableEq, Repr

/-- A write-only input set of `n` words, each with its valid bit (R30, R31, R32, R34, R38). -/
structure InputSet (n : Nat) where
  words : Vector Word n
  valid : BitVec n
  deriving DecidableEq, Repr

/-- Five 28-bit limb registers of radix 2^26 (R35, R110). -/
structure Limbs where
  l0 : Limb
  l1 : Limb
  l2 : Limb
  l3 : Limb
  l4 : Limb
  deriving DecidableEq, Repr

/-- The Poly1305 unit's registers (R35), less pstate. -/
structure PolyUnit where
  h : Limbs
  r : Limbs
  s : Vector Word 4
  buf : Vector Byte 16
  leftover : BitVec 4
  deriving DecidableEq, Repr

/-- MBUF's bytes written since reset, addresses strictly rising; an unlisted byte is one nothing has written (log 1). -/
abbrev Memory := List Host.Cell

/-- One request on the keystream port (41_aead.md R150). -/
structure PortRequest where
  key : Vector Byte 32
  nonce : Vector Byte 12
  ctr : BitVec 32
  deriving DecidableEq, Repr

/-- The keystream port's outside: the draws of `ks_fail` still to come and what the cipher core has been asked.
The MODEL's own fields (log 4, log 7): the engine itself keeps nothing of a request (R20). -/
structure Port where
  /-- draws already fixed, the next one first; after them `Config.ksFail` answers -/
  fails : List Bool
  /-- how many draws `Config.ksFail` has answered -/
  drawn : Nat
  /-- every request made, oldest first (R151) -/
  log : List PortRequest
  deriving DecidableEq, Repr

/-- A host access's width (20_memory.md R65). -/
inductive Width where
  | w8
  | w16
  | w32
  deriving DecidableEq, Repr

/-- One host bus transaction at a window offset (R60, R97). A narrow write uses the low bits of `data` (R62). -/
inductive HostAccess where
  | read (w : Width) (off : Nat)
  | write (w : Width) (off : Nat) (data : Word)
  deriving DecidableEq, Repr

/-- What the host is answered (R66, R67). -/
inductive Response where
  | readOk (data : Word)
  | writeOk
  /-- the BusError event; `data` is the 0 an illegal read returns -/
  | busError (data : Word)
  deriving DecidableEq, Repr

/-- What happens next, in the one total order of R73: a host transaction, the engine's turn, or reset. -/
inductive Event where
  | host (a : HostAccess)
  | engine
  | reset
  deriving DecidableEq, Repr

/-- Why the machine stops. -/
inductive Fault where
  /-- Raised by `hostAccess` (Machine/Bus.lean) when a host transaction's offset lies outside the engine's window:
  the access does not reach the engine, and "how the host decodes addresses outside it, is left to the platform"
  (20_memory.md R64). Safe: the model stops where the platform goes on. No command raises it. -/
  | outsideWindow (off : Nat)
  deriving DecidableEq, Repr

/-- Why an instruction has no meaning. -/
inductive Refusal where
  /-- Raised by `exec` for a command with no meaning in the model. Safe. No arm of `exec` uses it. -/
  | notModelled (mnemonic : String)
  deriving DecidableEq, Repr

/-- The machine. -/
structure State where
  /-- STATUS.BUSY (R23, R41) -/
  busy : Bool
  /-- STATUS.ERR (R23) -/
  err : Bool
  /-- STATUS.MATCH (R23) -/
  tagMatch : Bool
  /-- STATUS.TAGV, the internal bit `tagv` (R23, R40) -/
  tagv : Bool
  /-- STATUS.PSTATE (R23, R35, R37) -/
  pstate : PState
  /-- STATUS.ERRCODE (R23, R200) -/
  errcode : ErrCode
  /-- IRQ_EN (R24) -/
  irqEn : IrqBits
  /-- IRQ_STAT (R25) -/
  irqStat : IrqBits
  /-- the accepted command word (R41) -/
  pend : Word
  /-- the five operand registers (R27) -/
  srcOff : Word
  srcLen : Word
  aadOff : Word
  aadLen : Word
  dstOff : Word
  /-- KEY0..KEY7 and KEYV (R30, R38) -/
  key : InputSet 8
  /-- NONCE0..NONCE2 and NONCEV (R31, R38) -/
  nonce : InputSet 3
  /-- PKEY0..PKEY7 and PKEYV (R32, R38) -/
  pkey : InputSet 8
  /-- REFTAG0..REFTAG3 and REFV (R34, R38) -/
  reftag : InputSet 4
  /-- TAG0..TAG3 (R33) -/
  tag : Vector Word 4
  /-- the Poly1305 unit (R35) -/
  unit : PolyUnit
  /-- MBUF (20_memory.md R60, R61) -/
  mbuf : Memory
  /-- the parameter MBUF_BYTES, read at MBUF_SIZE (R29); no step changes it (log 2) -/
  mbufBytes : Nat
  /-- MODEL's own: which reset's draw unwritten MBUF bytes hold (log 1) -/
  mbufEpoch : Nat
  /-- MODEL's own: the keystream port's outside (log 4, log 7) -/
  port : Port
  /-- MODEL's own: the events to come, the next one first (log 5) -/
  events : List Event
  /-- MODEL's own: the host's answers so far, oldest first (log 7) -/
  responses : List Response
  deriving DecidableEq, Repr

/-- How a step or a meaning ends. -/
abbrev Result := Host.Outcome State Fault Refusal

/-- All three bits clear. -/
def IrqBits.clear : IrqBits := { done := false, err := false, werr := false }

/-- An input set wiped and invalid (R39, R45). -/
def InputSet.wiped {n : Nat} : InputSet n := { words := Vector.replicate n 0#32, valid := 0#n }

def Limbs.zero : Limbs := { l0 := 0#28, l1 := 0#28, l2 := 0#28, l3 := 0#28, l4 := 0#28 }

/-- The wiped unit (R45, R130, R158, R190). -/
def PolyUnit.zero : PolyUnit :=
  { h := .zero, r := .zero, s := Vector.replicate 4 0#32, buf := Vector.replicate 16 0#8, leftover := 0#4 }

/-- Sixteen zero tag bytes in four words. -/
def zeroTag : Vector Word 4 := Vector.replicate 4 0#32

/-- The machine right after (power-on) reset: R45, R230. Nothing of MBUF is listed: its contents are draws. -/
def State.reset : State :=
  { busy := false, err := false, tagMatch := false, tagv := false, pstate := .empty, errcode := .noError,
    irqEn := .clear, irqStat := .clear, pend := 0#32,
    srcOff := 0#32, srcLen := 0#32, aadOff := 0#32, aadLen := 0#32, dstOff := 0#32,
    key := .wiped, nonce := .wiped, pkey := .wiped, reftag := .wiped, tag := zeroTag, unit := .zero,
    mbuf := [], mbufBytes := Config.mbufBytes, mbufEpoch := 0,
    port := { fails := [], drawn := 0, log := [] }, events := [], responses := [] }

end Sys2Proof.Machine
end

