-- ==== Sys2Proof/Machine/Ops.lean ====
section
/-! DEFINITION. Ops.lean: the operations every command shares: MBUF access (spec/20_memory.md R79 to R81), the input
sets (spec/10_state.md R38, R39), the keystream port (spec/41_aead.md R150 to R152), acceptance and completion
(spec/42_maintenance.md R180, R181), and the reset event (spec/70_reset_and_hazards.md R230). -/

namespace Sys2Proof.Machine

/-! ## MBUF -/

namespace Memory

/-- The byte written at an offset; `none`: nothing has written it since reset. -/
def get? : Memory → Nat → Option Byte
  | [], _ => none
  | (a, b) :: m, o => if a = o then some b else get? m o

/-- The cells of a byte string laid out from an offset. -/
def cellsFrom : Nat → Bytes → Memory
  | _, [] => []
  | o, b :: x => (o, b) :: cellsFrom (o + 1) x

/-- Write a byte string at an offset: the cells below it, its own, the cells above it. -/
def write (m : Memory) (off : Nat) (x : Bytes) : Memory :=
  m.filter (fun c => c.1 < off) ++ (cellsFrom off x ++ m.filter (fun c => off + x.length ≤ c.1))

/-- The canonical form: addresses strictly rising. (No entry equals what an unlisted address reads as: that is "not
written", which no byte is.) -/
abbrev wf (m : Memory) : Prop := m.Pairwise (fun c d => c.1 < d.1)

end Memory

/-- MBUF byte `o`: what was written there, or else the draw it has held since reset (R66; log 1). -/
def State.readByte (s : State) (o : Nat) : Byte :=
  (Memory.get? s.mbuf o).getD (Config.mbufByte s.mbufEpoch o)

/-- `MemRead(off, n)` (R11). -/
def State.memRead (s : State) (off n : Nat) : Bytes := (List.range n).map fun i => s.readByte (off + i)

/-- `MemWrite(off, len(x), x)` (R11). -/
def State.memWrite (s : State) (off : Nat) (x : Bytes) : State := { s with mbuf := Memory.write s.mbuf off x }

/-! ## Input sets -/

namespace InputSet

/-- "A set is *complete* when all its bits are 1" (R38). -/
def complete {n : Nat} (x : InputSet n) : Bool := x.valid == BitVec.allOnes n

/-- A host write to word `i`: the word is stored and its valid bit set (R30 to R34). -/
def write {n : Nat} (x : InputSet n) (i : Fin n) (w : Word) : InputSet n :=
  { words := x.words.set i.val w i.isLt, valid := x.valid ||| BitVec.twoPow n i.val }

end InputSet

/-- P_INIT consumes PKEY (R39). -/
def State.consumePkey (s : State) : State := { s with pkey := .wiped }

/-- P_VERIFY consumes REFTAG (R39). -/
def State.consumeReftag (s : State) : State := { s with reftag := .wiped }

/-- A_ENCRYPT consumes KEY and NONCE (R39). -/
def State.consumeKeyNonce (s : State) : State := { s with key := .wiped, nonce := .wiped }

/-- A_DECRYPT consumes KEY, NONCE and REFTAG (R39). -/
def State.consumeKeyNonceReftag (s : State) : State := { s with key := .wiped, nonce := .wiped, reftag := .wiped }

/-! ## The keystream port -/

/-- The next draw of `ks_fail`: one already fixed, or else the free value (R150; log 4). -/
def Port.draw (p : Port) : Bool :=
  match p.fails with
  | f :: _ => f
  | [] => Config.ksFail p.drawn

/-- The port after one request: the draw is used up and the cipher core has seen the request. -/
def Port.after (p : Port) (q : PortRequest) : Port :=
  match p.fails with
  | _ :: rest => { p with fails := rest, log := p.log ++ [q] }
  | [] => { p with drawn := p.drawn + 1, log := p.log ++ [q] }

/-- `KSReq(key, nonce, ctr)`: the block when the draw `ks_fail` is false, none (`fail`) when it is true (R150). -/
def ksReq (ks : Keystream) (p : Port) (key : Vector Byte 32) (nonce : Vector Byte 12) (ctr : Nat) :
    Option (Vector Byte 64) × Port :=
  (if p.draw then none else some (ks key nonce (BitVec.ofNat 32 ctr)),
    p.after { key := key, nonce := nonce, ctr := BitVec.ofNat 32 ctr })

/-- The blocks for `n` counters from `ctr` on, one after the other; "the first `fail` stops the sequence" (R151). -/
def ksBlocks (ks : Keystream) (key : Vector Byte 32) (nonce : Vector Byte 12) :
    Nat → Nat → Port → Option Bytes × Port
  | 0, _, p => (some [], p)
  | n + 1, ctr, p =>
    match ksReq ks p key nonce ctr with
    | (none, p') => (none, p')
    | (some b, p') =>
      match ksBlocks ks key nonce n (ctr + 1) p' with
      | (none, p'') => (none, p'')
      | (some rest, p'') => (some (b.toList ++ rest), p'')

/-- `nb = ceil(L / 64)` (R151). -/
def dataBlocks (len : Nat) : Nat := (len + 63) / 64

/-! ## Acceptance and completion -/

/-- Acceptance of a command word by an idle engine (R180). -/
def State.accept (s : State) (w : Word) : State :=
  { s with busy := true, pend := w, err := false, errcode := .noError, tagMatch := false }

/-- The bookkeeping of a completion without error (R181). -/
def State.finish (s : State) : State :=
  { s with busy := false, irqStat := { s.irqStat with done := true } }

/-- The bookkeeping of a completion with error `e` (R181, R201): the one place where an error is recorded. -/
def State.finishError (e : ErrCode) (s : State) : State :=
  { s with busy := false, err := true, errcode := e, irqStat := { s.irqStat with done := true, err := true } }

/-- A command that did not raise completes. -/
def complete (s : State) : Result := .next s.finish

/-- `raise Error(e)`: the writes made before it stand, and the command completes with error `e` (R181, R208). -/
def raise (e : ErrCode) (s : State) : Result := .next (s.finishError e)

/-! ## Reset -/

/-- The reset event, at any time (R230): every element of 10_state.md takes its reset value, a pending command is
abandoned, MBUF is a fresh draw. What lies outside the engine stays: its size parameter, the port's outside, the
host's events and answers (log 11). -/
def State.resetEvent (s : State) : State :=
  { State.reset with
    mbufBytes := s.mbufBytes, mbufEpoch := s.mbufEpoch + 1, port := s.port, events := s.events,
    responses := s.responses }

end Sys2Proof.Machine
end

