-- ==== Sys2Proof/Machine/Flags.lean ====
section
/-! DEFINITION. Flags.lean: the words STATUS, IRQ_EN, IRQ_STAT and VALID as software reads and writes them
(spec/10_state.md R23 to R28), and the interrupt line (spec/60_exceptions.md R210). -/

namespace Sys2Proof.Machine

/-- STATUS.PSTATE's number (R23). -/
def PState.code : PState → BitVec 2
  | .empty => 0#2
  | .active => 1#2
  | .finalized => 2#2

/-- STATUS.ERRCODE's number (R200). -/
def ErrCode.code : ErrCode → BitVec 4
  | .noError => 0#4
  | .illegalCmd => 1#4
  | .invalidArgument => 2#4
  | .invalidKeyLength => 3#4
  | .sequence => 4#4
  | .authenticationFailure => 5#4
  | .underlyingPrimitiveFailure => 6#4
  | .allocationFailure => 7#4

/-- STATUS: ERRCODE 11:8, PSTATE 5:4, TAGV 3, MATCH 2, ERR 1, BUSY 0; the rest reserved, 0 (R23). -/
def State.statusWord (s : State) : Word :=
  fieldAt 8 s.errcode.code ||| fieldAt 4 s.pstate.code ||| fieldAt 3 (BitVec.ofBool s.tagv)
    ||| fieldAt 2 (BitVec.ofBool s.tagMatch) ||| fieldAt 1 (BitVec.ofBool s.err) ||| fieldAt 0 (BitVec.ofBool s.busy)

/-- VALID: REFV 27:24, PKEYV 23:16, NONCEV 10:8, KEYV 7:0; the rest reserved, 0 (R28). -/
def State.validWord (s : State) : Word :=
  fieldAt 24 s.reftag.valid ||| fieldAt 16 s.pkey.valid ||| fieldAt 8 s.nonce.valid ||| fieldAt 0 s.key.valid

namespace IrqBits

/-- Bits 2:0 as read; bits 31:3 reserved, 0 (R24, R25). -/
def toWord (b : IrqBits) : Word :=
  fieldAt 2 (BitVec.ofBool b.werr) ||| fieldAt 1 (BitVec.ofBool b.err) ||| fieldAt 0 (BitVec.ofBool b.done)

/-- Bits 2:0 of a written word; a write to a reserved bit is ignored (R24). -/
def ofWord (v : Word) : IrqBits := { done := v.getLsbD 0, err := v.getLsbD 1, werr := v.getLsbD 2 }

/-- Write 1 to clear: bit i is cleared when v[i] = 1 and left alone otherwise (R25). -/
def clearBy (b : IrqBits) (v : Word) : IrqBits :=
  { done := b.done && !v.getLsbD 0, err := b.err && !v.getLsbD 1, werr := b.werr && !v.getLsbD 2 }

end IrqBits

/-- The interrupt line (R210). -/
def State.irq (s : State) : Bool :=
  (s.irqStat.done && s.irqEn.done) || (s.irqStat.err && s.irqEn.err) || (s.irqStat.werr && s.irqEn.werr)

end Sys2Proof.Machine
end

