-- ==== Sys2Proof/Machine/Operands.lean ====
section
/-! DEFINITION. Operands.lean: the implicit operands of the commands (spec/30_encoding.md R91), the range and overlap
predicates (spec/20_memory.md R79) and the AEAD argument check (spec/41_aead.md R157). Nothing is scaled or
sign-extended (R91); all arithmetic is on naturals, so off + len never wraps. -/

namespace Sys2Proof.Machine

/-- `range_ok(off, len)` for an MBUF of `size` bytes (R79). -/
def rangeOk (size off len : Nat) : Bool := len == 0 || off + len ≤ size

/-- `overlap(a, la, b, lb)` (R79). -/
def overlap (a la b lb : Nat) : Bool := 0 < la && 0 < lb && a < b + lb && b < a + la

/-- The input range's bytes: MBUF[SRC_OFF : SRC_OFF + SRC_LEN]. -/
def State.srcBytes (s : State) : Bytes := s.memRead s.srcOff.toNat s.srcLen.toNat

/-- The associated data: MBUF[AAD_OFF : AAD_OFF + AAD_LEN]. -/
def State.aadBytes (s : State) : Bytes := s.memRead s.aadOff.toNat s.aadLen.toNat

/-- The output range's bytes: MBUF[DST_OFF : DST_OFF + SRC_LEN]; "its length is always SRC_LEN" (R27). -/
def State.dstBytes (s : State) : Bytes := s.memRead s.dstOff.toNat s.srcLen.toNat

/-- The 32 bytes of KEY0..KEY7 (R30). -/
def State.keyBytes (s : State) : Vector Byte 32 := bytesOfWords 32 s.key.words

/-- The 12 bytes of NONCE0..NONCE2 (R31). -/
def State.nonceBytes (s : State) : Vector Byte 12 := bytesOfWords 12 s.nonce.words

/-- The 32 bytes of PKEY0..PKEY7 (R32). -/
def State.pkeyBytes (s : State) : Vector Byte 32 := bytesOfWords 32 s.pkey.words

/-- The 16 bytes of TAG0..TAG3 (R33). -/
def State.tagBytes (s : State) : Vector Byte 16 := bytesOfWords 16 s.tag

/-- The 16 bytes of REFTAG0..REFTAG3 (R34). -/
def State.reftagBytes (s : State) : Vector Byte 16 := bytesOfWords 16 s.reftag.words

/-- P_UPDATE's range check (R125). -/
def State.srcRangeOk (s : State) : Bool := rangeOk s.mbufBytes s.srcOff.toNat s.srcLen.toNat

/-- `AEAD_ARGS(needs_ref)`: the seven conditions in their order (R157). -/
def State.aeadArgs (s : State) (needsRef : Bool) : Bool :=
  (s.key.complete && s.nonce.complete)
    && (!needsRef || s.reftag.complete)
    && rangeOk s.mbufBytes s.srcOff.toNat s.srcLen.toNat
    && rangeOk s.mbufBytes s.aadOff.toNat s.aadLen.toNat
    && rangeOk s.mbufBytes s.dstOff.toNat s.srcLen.toNat
    && !(overlap s.srcOff.toNat s.srcLen.toNat s.dstOff.toNat s.srcLen.toNat && s.srcOff != s.dstOff)
    && !overlap s.aadOff.toNat s.aadLen.toNat s.dstOff.toNat s.srcLen.toNat

end Sys2Proof.Machine
end

