-- ==== Sys2Proof/Machine/Bus.lean ====
section
/-! DEFINITION. Bus.lean: the host window: register map, legal accesses, reads and writes, idle and busy
(spec/20_memory.md R60 to R72). -/

namespace Sys2Proof.Machine

/-- The mapped registers (R63). -/
inductive Reg where
  | id
  | status
  | irqEn
  | irqStat
  | cmd
  | srcOff
  | srcLen
  | aadOff
  | aadLen
  | dstOff
  | valid
  | mbufSize
  | key (i : Fin 8)
  | nonce (i : Fin 3)
  | pkey (i : Fin 8)
  | tag (i : Fin 4)
  | reftag (i : Fin 4)
  deriving DecidableEq, Repr

/-- A register's window offset (R63). -/
def Reg.offset : Reg → Nat
  | .id => 0x000
  | .status => 0x004
  | .irqEn => 0x008
  | .irqStat => 0x00C
  | .cmd => 0x010
  | .srcOff => 0x014
  | .srcLen => 0x018
  | .aadOff => 0x01C
  | .aadLen => 0x020
  | .dstOff => 0x024
  | .valid => 0x028
  | .mbufSize => 0x02C
  | .key i => 0x040 + 4 * i.val
  | .nonce i => 0x060 + 4 * i.val
  | .pkey i => 0x080 + 4 * i.val
  | .tag i => 0x0A0 + 4 * i.val
  | .reftag i => 0x0B0 + 4 * i.val

/-- The register at word `k` of the register region (offset 4k); none: unmapped (R63). -/
def regAtWord (k : Nat) : Option Reg :=
  match k with
  | 0 => some .id
  | 1 => some .status
  | 2 => some .irqEn
  | 3 => some .irqStat
  | 4 => some .cmd
  | 5 => some .srcOff
  | 6 => some .srcLen
  | 7 => some .aadOff
  | 8 => some .aadLen
  | 9 => some .dstOff
  | 10 => some .valid
  | 11 => some .mbufSize
  | k =>
    if h : 16 ≤ k ∧ k < 24 then some (.key ⟨k - 16, by omega⟩)
    else if h : 24 ≤ k ∧ k < 27 then some (.nonce ⟨k - 24, by omega⟩)
    else if h : 32 ≤ k ∧ k < 40 then some (.pkey ⟨k - 32, by omega⟩)
    else if h : 40 ≤ k ∧ k < 44 then some (.tag ⟨k - 40, by omega⟩)
    else if h : 44 ≤ k ∧ k < 48 then some (.reftag ⟨k - 44, by omega⟩)
    else none

/-- The register at a window offset: none if the offset is misaligned or unmapped (R63, R65). -/
def regAt (off : Nat) : Option Reg := if off % 4 = 0 then regAtWord (off / 4) else none

/-- The access's width in bytes. -/
def Width.bytes : Width → Nat
  | .w8 => 1
  | .w16 => 2
  | .w32 => 4

def HostAccess.off : HostAccess → Nat
  | .read _ off => off
  | .write _ off _ => off

def HostAccess.width : HostAccess → Width
  | .read w _ => w
  | .write w _ _ => w

/-- `WINDOW_BYTES = 0x1000 + MBUF_BYTES` (R60). -/
def State.windowBytes (s : State) : Nat := Config.registerBytes + s.mbufBytes

/-- The window offset a host address reaches, if it lies in the engine's window (R60). -/
def State.windowOffset? (s : State) (addr : Nat) : Option Nat :=
  if Config.engineBase ≤ addr ∧ addr < Config.engineBase + s.windowBytes then some (addr - Config.engineBase)
  else none

/-- The legal accesses (R65): in the register region 32 bits at a mapped, aligned offset; in the MBUF region any
width, naturally aligned. -/
def State.legalAccess (s : State) (w : Width) (off : Nat) : Bool :=
  if off < Config.registerBytes then w == .w32 && (regAt off).isSome
  else off % w.bytes == 0 && off + w.bytes ≤ s.windowBytes

/-- What a legal 32-bit read of a register returns (R22 to R34). WO registers read 0 (R67); TAG reads 0 while busy
(R72). -/
def State.readReg (s : State) : Reg → Word
  | .id => Config.idWord
  | .status => s.statusWord
  | .irqEn => s.irqEn.toWord
  | .irqStat => s.irqStat.toWord
  | .cmd => 0#32
  | .srcOff => s.srcOff
  | .srcLen => s.srcLen
  | .aadOff => s.aadOff
  | .aadLen => s.aadLen
  | .dstOff => s.dstOff
  | .valid => s.validWord
  | .mbufSize => BitVec.ofNat 32 s.mbufBytes
  | .key _ => 0#32
  | .nonce _ => 0#32
  | .pkey _ => 0#32
  | .tag i => if s.busy then 0#32 else s.tag[i]
  | .reftag _ => 0#32

/-- What a legal read returns; MBUF reads 0 while busy (R62, R72). -/
def State.busRead (s : State) (w : Width) (off : Nat) : Word :=
  if off < Config.registerBytes then
    match regAt off with
    | some r => s.readReg r
    | none => 0#32
  else if s.busy then 0#32
  else BitVec.ofNat 32 (leInt (s.memRead (off - Config.registerBytes) w.bytes))

/-- A legal 32-bit write to a register while idle (R24 to R34, R180); RO registers ignore it (R67). -/
def State.writeReg (s : State) (v : Word) : Reg → State
  | .id => s
  | .status => s
  | .irqEn => { s with irqEn := .ofWord v }
  | .irqStat => { s with irqStat := s.irqStat.clearBy v }
  | .cmd => s.accept v
  | .srcOff => { s with srcOff := v }
  | .srcLen => { s with srcLen := v }
  | .aadOff => { s with aadOff := v }
  | .aadLen => { s with aadLen := v }
  | .dstOff => { s with dstOff := v }
  | .valid => s
  | .mbufSize => s
  | .key i => { s with key := s.key.write i v }
  | .nonce i => { s with nonce := s.nonce.write i v }
  | .pkey i => { s with pkey := s.pkey.write i v }
  | .tag _ => s
  | .reftag i => { s with reftag := s.reftag.write i v }

/-- A refused write "changes nothing except that it sets IRQ_STAT.WERR" (R71). -/
def State.refuseWrite (s : State) : State := { s with irqStat := { s.irqStat with werr := true } }

/-- A legal write while busy: refused, but for IRQ_EN and IRQ_STAT (R71). -/
def State.writeBusy (s : State) (v : Word) (off : Nat) : State :=
  match regAt off with
  | some .irqEn => s.writeReg v .irqEn
  | some .irqStat => s.writeReg v .irqStat
  | _ => s.refuseWrite

/-- A legal write while idle. -/
def State.writeIdle (s : State) (w : Width) (off : Nat) (v : Word) : State :=
  if off < Config.registerBytes then
    match regAt off with
    | some r => s.writeReg v r
    | none => s
  else s.memWrite (off - Config.registerBytes) (leBytes v.toNat w.bytes)

/-- A legal write (R71). The busy case looks `off` up in the register map only: no MBUF offset is mapped there. -/
def State.busWrite (s : State) (w : Width) (off : Nat) (v : Word) : State :=
  if s.busy then s.writeBusy v off else s.writeIdle w off v

/-- One transaction inside the window: the new state and the host's answer. An illegal access gets BusError, read
data 0, and changes nothing (R66). -/
def State.access (s : State) (a : HostAccess) : State × Response :=
  if s.legalAccess a.width a.off then
    match a with
    | .read w off => (s, .readOk (s.busRead w off))
    | .write w off v => (s.busWrite w off v, .writeOk)
  else (s, .busError 0#32)

/-- One transaction, its answer recorded. An offset outside the window does not reach the engine (R64; log 8). -/
def hostAccess (a : HostAccess) (s : State) : Result :=
  if a.off < s.windowBytes then
    .next { (s.access a).1 with responses := s.responses ++ [(s.access a).2] }
  else .fault (.outsideWindow a.off)

end Sys2Proof.Machine
end

