-- ==== Sys2Proof/Machine/Datapath.lean ====
section
/-! DEFINITION. Datapath.lean: the Poly1305 block datapath at the limb level: LOAD_KEY, BLOCK, FULL_REDUCE, ADD_MASK
and ABSORB (spec/40_poly1305.md R110 to R118), and the one-shot MAC pass (spec/41_aead.md R155). -/

namespace Sys2Proof.Machine

/-! ## LOAD_KEY (R111) -/

/-- `le_int(k[a:a+4])`, an unaligned little-endian 32-bit read. -/
def le32 (x : Bytes) (a : Nat) : Word := BitVec.ofNat 32 (leInt (slice x a (a + 4)))

/-- The clamped multiplier's limbs (R111). -/
def loadR (k : Bytes) : Limbs :=
  { l0 := (le32 k 0 &&& 0x3ffffff#32).setWidth 28
    l1 := (le32 k 3 >>> 2 &&& 0x3ffff03#32).setWidth 28
    l2 := (le32 k 6 >>> 4 &&& 0x3ffc0ff#32).setWidth 28
    l3 := (le32 k 9 >>> 6 &&& 0x3f03fff#32).setWidth 28
    l4 := (le32 k 12 >>> 8 &&& 0x00fffff#32).setWidth 28 }

/-- The additive mask's words: "the last 16 bytes of `key`" as "four 32-bit limbs" (R111). -/
def loadS (k : Bytes) : Vector Word 4 := Vector.ofFn fun j => le32 k (16 + 4 * j.val)

/-- A unit started on a key: h, buf and leftover cleared, then LOAD_KEY (R120, R155). -/
def initUnit (k : Bytes) : PolyUnit :=
  { h := .zero, r := loadR k, s := loadS k, buf := Vector.replicate 16 0#8, leftover := 0#4 }

/-! ## BLOCK (R112): "all products are 32×32→64-bit and all sums are in 64 bits" -/

/-- Five 64-bit transients of one BLOCK. -/
structure Wide where
  d0 : BitVec 64
  d1 : BitVec 64
  d2 : BitVec 64
  d3 : BitVec 64
  d4 : BitVec 64
  deriving DecidableEq, Repr

/-- The limb mask `M26` (R112). -/
def m26 : BitVec 64 := 0x3ffffff#64

/-- a0..a4: the block added to the accumulator; the hibit is `hb << 24` in limb 4. -/
def addBlock (h : Limbs) (m : Bytes) (hb : Bool) : Wide :=
  { d0 := h.l0.setWidth 64 + ((le32 m 0).setWidth 64 &&& m26)
    d1 := h.l1.setWidth 64 + ((le32 m 3).setWidth 64 >>> 2 &&& m26)
    d2 := h.l2.setWidth 64 + ((le32 m 6).setWidth 64 >>> 4 &&& m26)
    d3 := h.l3.setWidth 64 + ((le32 m 9).setWidth 64 >>> 6 &&& m26)
    d4 := h.l4.setWidth 64 + ((le32 m 12).setWidth 64 >>> 8 ||| (BitVec.ofBool hb).setWidth 64 <<< 24) }

/-- d0..d4: the product by r, with the multiples 5·r for the terms of weight 2^130 and above. -/
def mulR (a : Wide) (r : Limbs) : Wide :=
  let r0 := r.l0.setWidth 64
  let r1 := r.l1.setWidth 64
  let r2 := r.l2.setWidth 64
  let r3 := r.l3.setWidth 64
  let r4 := r.l4.setWidth 64
  let s1 := 5#64 * r1
  let s2 := 5#64 * r2
  let s3 := 5#64 * r3
  let s4 := 5#64 * r4
  { d0 := a.d0 * r0 + a.d1 * s4 + a.d2 * s3 + a.d3 * s2 + a.d4 * s1
    d1 := a.d0 * r1 + a.d1 * r0 + a.d2 * s4 + a.d3 * s3 + a.d4 * s2
    d2 := a.d0 * r2 + a.d1 * r1 + a.d2 * r0 + a.d3 * s4 + a.d4 * s3
    d3 := a.d0 * r3 + a.d1 * r2 + a.d2 * r1 + a.d3 * r0 + a.d4 * s4
    d4 := a.d0 * r4 + a.d1 * r3 + a.d2 * r2 + a.d3 * r1 + a.d4 * r0 }

/-- The partial carry back into 28-bit limb registers. -/
def carryLimbs (d : Wide) : Limbs :=
  let d1 := d.d1 + d.d0 >>> 26
  let d2 := d.d2 + d1 >>> 26
  let d3 := d.d3 + d2 >>> 26
  let d4 := d.d4 + d3 >>> 26
  let h0 := (d.d0 &&& m26) + 5#64 * (d4 >>> 26)
  let h1 := (d1 &&& m26) + h0 >>> 26
  { l0 := (h0 &&& m26).setWidth 28
    l1 := h1.setWidth 28
    l2 := (d2 &&& m26).setWidth 28
    l3 := (d3 &&& m26).setWidth 28
    l4 := (d4 &&& m26).setWidth 28 }

/-- `BLOCK(m, hb)` on the accumulator `h` with multiplier `r` (R112). -/
def block (h r : Limbs) (m : Bytes) (hb : Bool) : Limbs := carryLimbs (mulR (addBlock h m hb) r)

/-! ## FULL_REDUCE (R114): "arithmetic on g4, mask and the w words is modulo 2^32" -/

/-- Five 32-bit transients of FULL_REDUCE. -/
structure Narrow where
  n0 : Word
  n1 : Word
  n2 : Word
  n3 : Word
  n4 : Word
  deriving DecidableEq, Repr

/-- The full carry chain. -/
def fullCarry (h : Limbs) : Narrow :=
  let m := 0x3ffffff#32
  let h1 := h.l1.setWidth 32
  let h2 := h.l2.setWidth 32 + h1 >>> 26
  let h3 := h.l3.setWidth 32 + h2 >>> 26
  let h4 := h.l4.setWidth 32 + h3 >>> 26
  let h0 := h.l0.setWidth 32 + 5#32 * (h4 >>> 26)
  { n0 := h0 &&& m, n1 := (h1 &&& m) + h0 >>> 26, n2 := h2 &&& m, n3 := h3 &&& m, n4 := h4 &&& m }

/-- g = h + 5 − 2^130, with its sign in the top bit of g4. -/
def plusFive (h : Narrow) : Narrow :=
  let m := 0x3ffffff#32
  let g0 := h.n0 + 5#32
  let g1 := h.n1 + g0 >>> 26
  let g2 := h.n2 + g1 >>> 26
  let g3 := h.n3 + g2 >>> 26
  { n0 := g0 &&& m, n1 := g1 &&& m, n2 := g2 &&& m, n3 := g3 &&& m, n4 := h.n4 + g3 >>> 26 - 0x4000000#32 }

/-- The constant-time select of g where H ≥ p. -/
def selectReduced (h g : Narrow) : Narrow :=
  let mask := (g.n4 >>> 31) - 1#32
  { n0 := (h.n0 &&& ~~~mask) ||| (g.n0 &&& mask)
    n1 := (h.n1 &&& ~~~mask) ||| (g.n1 &&& mask)
    n2 := (h.n2 &&& ~~~mask) ||| (g.n2 &&& mask)
    n3 := (h.n3 &&& ~~~mask) ||| (g.n3 &&& mask)
    n4 := (h.n4 &&& ~~~mask) ||| (g.n4 &&& mask) }

/-- The four 32-bit words w0..w3. -/
def packWords (h : Narrow) : Vector Word 4 :=
  #v[h.n0 ||| h.n1 <<< 26,
     h.n1 >>> 6 ||| h.n2 <<< 20,
     h.n2 >>> 12 ||| h.n3 <<< 14,
     h.n3 >>> 18 ||| h.n4 <<< 8]

/-- `FULL_REDUCE()` (R114). -/
def fullReduce (h : Limbs) : Vector Word 4 :=
  let c := fullCarry h
  packWords (selectReduced c (plusFive c))

/-! ## ADD_MASK (R115) -/

/-- `ADD_MASK(w)`: s added modulo 2^128, the carry out of bit 127 dropped, serialized little-endian. -/
def addMask (w s : Vector Word 4) : Bytes :=
  let f0 := w[0].toNat + s[0].toNat
  let f1 := w[1].toNat + s[1].toNat + f0 >>> 32
  let f2 := w[2].toNat + s[2].toNat + f1 >>> 32
  let f3 := w[3].toNat + s[3].toNat + f2 >>> 32
  leBytes (f0 % 2 ^ 32) 4 ++ leBytes (f1 % 2 ^ 32) 4 ++ leBytes (f2 % 2 ^ 32) 4 ++ leBytes (f3 % 2 ^ 32) 4

/-! ## ABSORB (R118) -/

/-- `buf[at : at + len(x)] <- x`. -/
def bufWrite (buf : Vector Byte 16) (start : Nat) (x : Bytes) : Vector Byte 16 :=
  Vector.ofFn fun k => if start ≤ k.val ∧ k.val < start + x.length then x.getD (k.val - start) 0#8 else buf[k.val]

/-- `n` full blocks from the front of `x`; the accumulator and the bytes left. -/
def absorbBlocks (r : Limbs) : Nat → Limbs → Bytes → Limbs × Bytes
  | 0, h, x => (h, x)
  | n + 1, h, x => absorbBlocks r n (block h r (x.take 16) true) (x.drop 16)

/-- ABSORB's part from an empty buffer on: "while len(x) − i ≥ 16" the full blocks, then the rest is buffered. -/
def absorbRest (u : PolyUnit) (x : Bytes) : PolyUnit :=
  let (h, rest) := absorbBlocks u.r (x.length / 16) u.h x
  if rest.isEmpty then { u with h := h }
  else { u with h := h, buf := bufWrite u.buf 0 rest, leftover := BitVec.ofNat 4 rest.length }

/-- `ABSORB(x)` (R118). -/
def absorb (u : PolyUnit) (x : Bytes) : PolyUnit :=
  if u.leftover = 0#4 then absorbRest u x
  else
    let want := min (16 - u.leftover.toNat) x.length
    let buf := bufWrite u.buf u.leftover.toNat (x.take want)
    if u.leftover.toNat + want < 16 then
      { u with buf := buf, leftover := BitVec.ofNat 4 (u.leftover.toNat + want) }
    else
      absorbRest
        { u with h := block u.h u.r buf.toList true, buf := Vector.replicate 16 0#8, leftover := 0#4 } (x.drop want)

/-! ## The end of a MAC (R130), and the one-shot pass (R155) -/

/-- The accumulator after the padded block, which is absorbed only if bytes are left over (R130). -/
def padFinal (u : PolyUnit) : Limbs :=
  if u.leftover = 0#4 then u.h
  else block u.h u.r (bufWrite u.buf u.leftover.toNat [0x01#8]).toList false

/-- P_FINAL's tag bytes (R130). -/
def finalTag (u : PolyUnit) : Bytes := addMask (fullReduce (padFinal u)) u.s

/-- `POLY_ONESHOT(k, m)` (R155); the unit it runs on is wiped by AEAD_EXIT. -/
def polyOneshot (k m : Bytes) : Bytes := finalTag (absorb (initUnit k) m)

end Sys2Proof.Machine
end

