-- ==== Sys2Proof/Machine/Aead.lean ====
section
/-! DEFINITION. Aead.lean: A_ENCRYPT and A_DECRYPT (spec/41_aead.md). Each is written for any keystream function `ks`
(the parameter KS, R7); the machine's own meanings take the free value `Config.keystream`. -/

namespace Sys2Proof.Machine

/-- `TRANSCRIPT(aad, ct)` (R154). -/
def transcript (aad ct : Bytes) : Bytes :=
  aad ++ pad16 aad ++ ct ++ pad16 ct ++ leBytes aad.length 8 ++ leBytes ct.length 8

/-- `otk = b0[0:32]` (R153). -/
def oneTimeKey (b0 : Vector Byte 64) : Bytes := b0.toList.take 32

/-- The tag both AEAD commands compute: `POLY_ONESHOT(otk, TRANSCRIPT(aad, ct))` (R160, R170). -/
def aeadTag (b0 : Vector Byte 64) (aad ct : Bytes) : Bytes := polyOneshot (oneTimeKey b0) (transcript aad ct)

/-- `AEAD_EXIT` of A_ENCRYPT (R158): the unit wiped, EMPTY, KEY and NONCE consumed. -/
def State.aeadExitEncrypt (s : State) : State := { s with unit := .zero, pstate := .empty }.consumeKeyNonce

/-- `AEAD_EXIT` of A_DECRYPT (R158): REFTAG consumed as well. -/
def State.aeadExitDecrypt (s : State) : State := { s with unit := .zero, pstate := .empty }.consumeKeyNonceReftag

/-- The whole destination range zeroed (R160, R170). -/
def State.zeroDst (s : State) : State := s.memWrite s.dstOff.toNat (zeros s.srcLen.toNat)

/-- A_ENCRYPT's label UPF (R160). -/
def encryptPortFailure (s : State) : Result :=
  raise .underlyingPrimitiveFailure { s.zeroDst with tag := zeroTag, tagv := false }.aeadExitEncrypt

/-- A_ENCRYPT's success path, given the ciphertext and the block for counter 0 (R160). -/
def encryptSuccess (s : State) (b0 : Vector Byte 64) (ct : Bytes) : Result :=
  complete
    { s.memWrite s.dstOff.toNat ct with
      tag := wordsOfBytes 4 (aeadTag b0 s.aadBytes ct), tagv := true }.aeadExitEncrypt

/-- A_ENCRYPT past its checks (R160): the port requests in the order of R151, then one of the two ends. -/
def encryptBody (ks : Keystream) (s : State) : Result :=
  match ksReq ks s.port s.keyBytes s.nonceBytes 0 with
  | (none, p) => encryptPortFailure { s with port := p }
  | (some b0, p) =>
    match ksBlocks ks s.keyBytes s.nonceBytes (dataBlocks s.srcLen.toNat) 1 p with
    | (none, p') => encryptPortFailure { s with port := p' }
    | (some stream, p') =>
      encryptSuccess { s with port := p' } b0 (xorBytes s.srcBytes (stream.take s.srcLen.toNat))

/-- `A_ENCRYPT` with the keystream function `ks`. -/
def encryptWith (ks : Keystream) (s : State) : Result :=
  if s.pstate = .active then raise .sequence s.consumeKeyNonce
  else if !s.aeadArgs false then raise .invalidArgument s.consumeKeyNonce
  else encryptBody ks s

/-- `A_ENCRYPT` (R160). -/
def execAEncrypt (s : State) : Result := encryptWith Config.keystream s

/-- A_DECRYPT's label UPF (R170). -/
def decryptPortFailure (s : State) : Result :=
  raise .underlyingPrimitiveFailure { s.zeroDst with tagMatch := false }.aeadExitDecrypt

/-- A_DECRYPT when the tags differ (R170). -/
def decryptMismatch (s : State) : Result :=
  raise .authenticationFailure { s.zeroDst with tagMatch := false }.aeadExitDecrypt

/-- A_DECRYPT after its tags matched: only now the data keystream is requested (R151, R170). -/
def decryptData (ks : Keystream) (s : State) : Result :=
  match ksBlocks ks s.keyBytes s.nonceBytes (dataBlocks s.srcLen.toNat) 1 s.port with
  | (none, p) => decryptPortFailure { s with port := p }
  | (some stream, p) =>
    complete
      { { s with port := p }.memWrite s.dstOff.toNat (xorBytes s.srcBytes (stream.take s.srcLen.toNat)) with
        tagMatch := true }.aeadExitDecrypt

/-- A_DECRYPT past its checks (R170): TAG cleared first, then verify, then decrypt. -/
def decryptBody (ks : Keystream) (s : State) : Result :=
  match ksReq ks s.port s.keyBytes s.nonceBytes 0 with
  | (none, p) => decryptPortFailure { s with port := p, tag := zeroTag, tagv := false }
  | (some b0, p) =>
    if ctEq (aeadTag b0 s.aadBytes s.srcBytes) s.reftagBytes.toList then
      decryptData ks { s with port := p, tag := zeroTag, tagv := false }
    else decryptMismatch { s with port := p, tag := zeroTag, tagv := false }

/-- `A_DECRYPT` with the keystream function `ks`. -/
def decryptWith (ks : Keystream) (s : State) : Result :=
  if s.pstate = .active then raise .sequence s.consumeKeyNonceReftag
  else if !s.aeadArgs true then raise .invalidArgument s.consumeKeyNonceReftag
  else decryptBody ks s

/-- `A_DECRYPT` (R170). -/
def execADecrypt (s : State) : Result := decryptWith Config.keystream s

end Sys2Proof.Machine
end

