-- ==== Sys2Proof/Machine/Maintenance.lean ====
section
/-! DEFINITION. Maintenance.lean: WIPE and WIPE.ZM (spec/42_maintenance.md R190). -/

namespace Sys2Proof.Machine

/-- What WIPE clears in the registers (R190). -/
def State.wipeRegisters (s : State) : State :=
  { s with
    key := .wiped, nonce := .wiped, pkey := .wiped, reftag := .wiped,
    tag := zeroTag, tagv := false, tagMatch := false, unit := .zero, pstate := .empty }

/-- Every MBUF byte zeroed (R190, ZM = 1). -/
def State.wipeMbuf (s : State) : State := s.memWrite 0 (zeros s.mbufBytes)

/-- `WIPE` and `WIPE.ZM` (R190): legal in every state, no error. -/
def execWipe (zm : Bool) (s : State) : Result :=
  complete (if zm then s.wipeRegisters.wipeMbuf else s.wipeRegisters)

end Sys2Proof.Machine
end

