-- ==== Sys2Proof/Machine/Poly1305.lean ====
section
/-! DEFINITION. Poly1305.lean: P_INIT, P_UPDATE, P_FINAL, P_VERIFY (spec/40_poly1305.md section 2). The checks stand
in the order of spec/60_exceptions.md R205. -/

namespace Sys2Proof.Machine

/-- `P_INIT` (R120): legal in every pstate; consumes PKEY on both paths. -/
def execPInit (s : State) : Result :=
  if s.pkey.complete then
    complete { s with unit := initUnit s.pkeyBytes.toList, pstate := .active }.consumePkey
  else raise .invalidKeyLength s.consumePkey

/-- `P_UPDATE` (R125). -/
def execPUpdate (s : State) : Result :=
  if s.pstate ≠ .active then raise .sequence s
  else if !s.srcRangeOk then raise .invalidArgument s
  else complete { s with unit := absorb s.unit s.srcBytes }

/-- `P_FINAL` (R130): the tag out, the unit wiped, FINALIZED. -/
def execPFinal (s : State) : Result :=
  if s.pstate ≠ .active then raise .sequence s
  else
    complete
      { s with tag := wordsOfBytes 4 (finalTag s.unit), tagv := true, unit := .zero, pstate := .finalized }

/-- `P_VERIFY` (R135): consumes REFTAG on every path; a mismatch is not an error. -/
def execPVerify (s : State) : Result :=
  if !s.tagv then raise .sequence s.consumeReftag
  else if !s.reftag.complete then raise .invalidArgument s.consumeReftag
  else complete { s with tagMatch := ctEq s.tagBytes.toList s.reftagBytes.toList }.consumeReftag

end Sys2Proof.Machine
end

