-- ==== Sys2Proof/Machine/Dispatch.lean ====
section
/-! DEFINITION. Dispatch.lean: `EXEC(c)` of spec/42_maintenance.md R181, one arm per command. -/

namespace Sys2Proof.Machine

def exec (i : Instr) (s : State) : Host.Outcome State Fault Refusal :=
  match i with
  | .pInit => Sys2Proof.Machine.execPInit s
  | .pUpdate => Sys2Proof.Machine.execPUpdate s
  | .pFinal => Sys2Proof.Machine.execPFinal s
  | .pVerify => Sys2Proof.Machine.execPVerify s
  | .aEncrypt => Sys2Proof.Machine.execAEncrypt s
  | .aDecrypt => Sys2Proof.Machine.execADecrypt s
  | .wipe zm => Sys2Proof.Machine.execWipe zm s

end Sys2Proof.Machine
end

