-- ==== Sys2Proof/Machine/Step.lean ====
section
/-! DEFINITION. Step.lean: the one step: the next event of the total order of spec/20_memory.md R73, the engine's
completion step (spec/42_maintenance.md R181) among them. -/

namespace Sys2Proof.Machine

/-- The completion step (R181): decode `pend`; an illegal word completes with ILLEGAL_CMD and changes nothing else
(R94). -/
def completion (s : State) : Result :=
  match decode s.pend with
  | .ok i => exec i s
  | .error _ => raise .illegalCmd s

/-- The engine's turn: its step "is enabled exactly when busy = 1" (R181); idle, "it does nothing" (R222). -/
def engineTurn (s : State) : Result := if s.busy then completion s else .next s

/-- The event `e` happens. -/
def handle (e : Event) (s : State) : Result :=
  match e with
  | .host a => hostAccess a s
  | .engine => engineTurn s
  | .reset => .next s.resetEvent

/-- One step: the next event, or, when the outside world has nothing left to do, the engine's turn (R182). -/
def step (s : State) : Result :=
  match s.events with
  | [] => engineTurn s
  | e :: rest => handle e { s with events := rest }

/-- The machine that has just accepted the word made of these bits and whose next event is the engine's turn: an
engine gets a command by no other way than acceptance (R180; log 6). -/
def State.withFetchWord (s : State) (nbits w : Nat) : State :=
  { s.accept (tableWord nbits w) with events := .engine :: s.events }

end Sys2Proof.Machine
end

