-- ==== Sys2Proof/Machine/MacFunction.lean ====
section
/-! DEFINITION. MacFunction.lean: the mathematical function Poly1305 of spec/00_scope.md R12, "that every command's tag
must equal". The machine computes it with the limb datapath; this file is what that datapath is held against. -/

namespace Sys2Proof.Machine

/-- `p = 2^130 − 5`. -/
def primeP : Nat := 2 ^ 130 - 5

/-- `CLAMP` (R12). -/
def clampMask : Nat := 0x0ffffffc0ffffffc0ffffffc0fffffff

/-- `n = le_int(blk) + 2^(8*len(blk))` (R12). -/
def blockNumber (blk : Bytes) : Nat := leInt blk + 2 ^ (8 * blk.length)

/-- R12's loop over `n` blocks of at most 16 bytes. -/
def macLoop (rr : Nat) : Nat → Nat → Bytes → Nat
  | 0, a, _ => a
  | n + 1, a, m => macLoop rr n (((a + blockNumber (m.take 16)) * rr) % primeP) (m.drop 16)

/-- The value `a` after all of `m` (R12): one turn for each started block of 16 bytes. -/
def macAccumulator (rr : Nat) (m : Bytes) : Nat := macLoop rr ((m.length + 15) / 16) 0 m

/-- The multiplier `rr` of a key (R12). -/
def keyMultiplier (k : Bytes) : Nat := leInt (slice k 0 16) &&& clampMask

/-- `Poly1305(k, m)` (R12). -/
def poly1305 (k m : Bytes) : Bytes :=
  leBytes ((macAccumulator (keyMultiplier k) m + leInt (slice k 16 32)) % 2 ^ 128) 16

end Sys2Proof.Machine
end

