-- ==== Sys2Proof/Safety.lean ====
section
/-! DEFINITION. Safety.lean: the terms claims use: limb values and bounds (spec/10_state.md R35, R36), the invariant
of the machine, what a stream has absorbed (spec/40_poly1305.md R117), the data keystream (spec/41_aead.md R152), and
what the host can see (spec/60_exceptions.md R202, R215). -/

namespace Sys2Proof.Machine

/-! ## Values and bounds of the Poly1305 unit -/

/-- `Σ h[i]·2^(26i)` (R35, R110). -/
def Limbs.value (x : Limbs) : Nat :=
  x.l0.toNat + x.l1.toNat * 2 ^ 26 + x.l2.toNat * 2 ^ 52 + x.l3.toNat * 2 ^ 78 + x.l4.toNat * 2 ^ 104

/-- `Σ s[j]·2^(32j)` (R35); also `Σ w_j·2^(32j)` (R114). -/
def maskValue (v : Vector Word 4) : Nat :=
  v[0].toNat + v[1].toNat * 2 ^ 32 + v[2].toNat * 2 ^ 64 + v[3].toNat * 2 ^ 96

/-- The bounds of h after BLOCK: "h[i] < 2^26 for i ≠ 1, and h[1] < 2^27" (R36, R113). -/
structure Limbs.Tight (x : Limbs) : Prop where
  l0 : x.l0.toNat < 2 ^ 26
  l1 : x.l1.toNat < 2 ^ 27
  l2 : x.l2.toNat < 2 ^ 26
  l3 : x.l3.toNat < 2 ^ 26
  l4 : x.l4.toNat < 2 ^ 26

/-- Every limb below 2^26: the bound of r (R35, R36). -/
structure Limbs.Below26 (x : Limbs) : Prop where
  l0 : x.l0.toNat < 2 ^ 26
  l1 : x.l1.toNat < 2 ^ 26
  l2 : x.l2.toNat < 2 ^ 26
  l3 : x.l3.toNat < 2 ^ 26
  l4 : x.l4.toNat < 2 ^ 26

/-- "buf[leftover:16] is zero" (R117, R118). -/
def PolyUnit.TailZero (u : PolyUnit) : Prop :=
  ∀ (k : Nat) (h : k < 16), u.leftover.toNat ≤ k → u.buf[k] = 0#8

/-! ## The invariant -/

/-- A word whose valid bit is clear holds 0: sets are written and validated together and wiped together (R38, R39). -/
def InputSet.InvalidZero {n : Nat} (x : InputSet n) : Prop :=
  ∀ (i : Nat) (h : i < n), x.valid.getLsbD i = false → x.words[i] = 0#32

/-- What holds in every state the engine can be in. -/
structure State.Inv (s : State) : Prop where
  /-- MBUF's list is canonical -/
  mbufCanonical : Memory.wf s.mbuf
  /-- and lists bytes of MBUF only (R60) -/
  mbufInside : ∀ c ∈ s.mbuf, c.1 < s.mbufBytes
  /-- MBUF_BYTES is a legal size (R7) -/
  mbufLegal : s.mbufBytes % 4 = 0 ∧ 64 ≤ s.mbufBytes ∧ s.mbufBytes ≤ 2 ^ 24
  /-- "While BUSY = 1, ERR, MATCH and ERRCODE read 0" (R23) -/
  busyClear : s.busy = true → s.err = false ∧ s.errcode = .noError ∧ s.tagMatch = false
  /-- ERR and ERRCODE agree (R184) -/
  errAgrees : s.err = true ↔ s.errcode ≠ .noError
  /-- code 7 is "never produced" (R200) -/
  noAllocation : s.errcode ≠ .allocationFailure
  /-- MATCH = 1 only after a completion without error (R135, R170) -/
  matchNoError : s.tagMatch = true → s.err = false
  /-- TAG is zero unless it holds a valid tag (R33, R40) -/
  tagZero : s.tagv = false → s.tag = zeroTag
  keyZero : s.key.InvalidZero
  nonceZero : s.nonce.InvalidZero
  pkeyZero : s.pkey.InvalidZero
  reftagZero : s.reftag.InvalidZero
  /-- outside a stream the unit is wiped (R45, R130, R158, R190) -/
  unitWiped : s.pstate ≠ .active → s.unit = .zero
  /-- the limb bounds between commands (R36) -/
  hTight : s.unit.h.Tight
  rBound : s.unit.r.Below26
  bufTail : s.unit.TailZero

/-- "After reset, every element of this file holds the value in the "reset" column of its rule" (R45): the list of R45. -/
structure State.AtReset (s : State) : Prop where
  id : s.readReg .id = 0x13050100#32
  mbufSize : s.readReg .mbufSize = BitVec.ofNat 32 s.mbufBytes
  status : s.readReg .status = 0x00000000#32
  statusFields : s.busy = false ∧ s.err = false ∧ s.tagMatch = false ∧ s.tagv = false ∧ s.pstate = .empty
    ∧ s.errcode = .noError
  irqEn : s.readReg .irqEn = 0#32
  irqStat : s.readReg .irqStat = 0#32
  operands : s.srcOff = 0#32 ∧ s.srcLen = 0#32 ∧ s.aadOff = 0#32 ∧ s.aadLen = 0#32 ∧ s.dstOff = 0#32
  valid : s.readReg .valid = 0#32
  inputWords : (∀ i : Fin 8, s.key.words[i] = 0#32 ∧ s.pkey.words[i] = 0#32) ∧ (∀ i : Fin 3, s.nonce.words[i] = 0#32)
    ∧ (∀ i : Fin 4, s.reftag.words[i] = 0#32 ∧ s.tag[i] = 0#32)
  accumulator : s.unit.h = .zero
  multiplier : s.unit.r = .zero
  mask : ∀ j : Fin 4, s.unit.s[j] = 0#32
  buffer : ∀ k : Fin 16, s.unit.buf[k] = 0#8
  leftover : s.unit.leftover = 0#4
  pend : s.pend = 0#32

/-! ## What a stream has absorbed (R117) -/

/-- The unit after a stream keyed with `k` has absorbed `m`: R117's list, with the key's r and s loaded. -/
structure Absorbed (k m : Bytes) (u : PolyUnit) : Prop where
  multiplier : u.r.value = keyMultiplier k
  rBound : u.r.Below26
  mask : maskValue u.s = leInt (slice k 16 32)
  leftover : u.leftover.toNat = m.length % 16
  buf : u.buf.toList = m.drop (m.length - m.length % 16) ++ zeros (16 - m.length % 16)
  acc : u.h.value % primeP = macAccumulator (keyMultiplier k) (m.take (m.length - m.length % 16))
  hTight : u.h.Tight

/-- `Streamed k m s`: s is a state of a command sequence P_INIT with PKEY = k, then P_UPDATEs that read strings whose
concatenation is m, with anything in between that leaves the unit and pstate alone (R117). -/
inductive Streamed (k : Bytes) : Bytes → State → Prop where
  | init {s t : State} : s.pkey.complete = true → s.pkeyBytes.toList = k → exec .pInit s = .next t → Streamed k [] t
  | between {m : Bytes} {s t : State} : Streamed k m s → t.unit = s.unit → t.pstate = s.pstate → Streamed k m t
  | update {m : Bytes} {s t : State} :
      Streamed k m s → s.srcRangeOk = true → exec .pUpdate s = .next t → Streamed k (m ++ s.srcBytes) t

/-- ABSORB of one byte: the form of ABSORB that has no loop. -/
def absorbByte (u : PolyUnit) (b : Byte) : PolyUnit :=
  let buf := bufWrite u.buf u.leftover.toNat [b]
  if u.leftover.toNat = 15 then
    { u with h := block u.h u.r buf.toList true, buf := Vector.replicate 16 0#8, leftover := 0#4 }
  else { u with buf := buf, leftover := u.leftover + 1#4 }

/-! ## The keystream port -/

/-- Data keystream byte i is "byte (i mod 64) of block `1 + floor(i/64)`" (R152). -/
def keystreamByte (ks : Keystream) (key : Vector Byte 32) (nonce : Vector Byte 12) (i : Nat) : Byte :=
  (ks key nonce (BitVec.ofNat 32 (1 + i / 64))).toList.getD (i % 64) 0#8

/-- `DATA_KS(key, nonce, L)` (R152). -/
def dataKeystream (ks : Keystream) (key : Vector Byte 32) (nonce : Vector Byte 12) (len : Nat) : Bytes :=
  (List.range len).map (keystreamByte ks key nonce)

/-- The requests for counters 0, 1, …, n − 1 in that order (R151). -/
def portRequests (key : Vector Byte 32) (nonce : Vector Byte 12) (n : Nat) : List PortRequest :=
  (List.range n).map fun j => { key := key, nonce := nonce, ctr := BitVec.ofNat 32 j }

/-- The `ks_fail` draw of the j-th request from here on. -/
def Port.drawAt (p : Port) (j : Nat) : Bool :=
  p.fails.getD j (Config.ksFail (p.drawn + (j - p.fails.length)))

/-- The next `n` requests are all answered `ok`. -/
def Port.OkThrough (p : Port) (n : Nat) : Prop := ∀ j, j < n → p.drawAt j = false

/-- The j-th request from here on is the first answered `fail`. -/
def Port.FirstFailAt (p : Port) (j : Nat) : Prop := p.OkThrough j ∧ p.drawAt j = true

/-- What A_ENCRYPT and A_DECRYPT put out: the input XOR the data keystream (R152). -/
def State.cipherOutput (s : State) : Bytes :=
  xorBytes s.srcBytes (dataKeystream Config.keystream s.keyBytes s.nonceBytes s.srcLen.toNat)

/-- The one-time key of the loaded key and nonce (R153). -/
def State.oneTimeKeyOf (s : State) : Bytes := oneTimeKey (Config.keystream s.keyBytes s.nonceBytes 0#32)

/-- The RFC 8439 tag of a ciphertext under the loaded key, nonce and associated data (R154, R155). -/
def State.expectedTag (s : State) (ct : Bytes) : Bytes := poly1305 s.oneTimeKeyOf (transcript s.aadBytes ct)

/-! ## Frames and views -/

/-- Every byte of MBUF reads as before. -/
def SameMbuf (s t : State) : Prop := ∀ o, t.readByte o = s.readByte o

/-- Every byte of MBUF outside [off, off + len) reads as before. -/
def SameMbufOutside (off len : Nat) (s t : State) : Prop :=
  ∀ o, ¬(off ≤ o ∧ o < off + len) → t.readByte o = s.readByte o

/-- What no command writes: the operand registers, IRQ_EN, IRQ_STAT.WERR (R195), the accepted word, and what lies
outside the engine. -/
structure SameControl (s t : State) : Prop where
  srcOff : t.srcOff = s.srcOff
  srcLen : t.srcLen = s.srcLen
  aadOff : t.aadOff = s.aadOff
  aadLen : t.aadLen = s.aadLen
  dstOff : t.dstOff = s.dstOff
  irqEn : t.irqEn = s.irqEn
  werr : t.irqStat.werr = s.irqStat.werr
  pend : t.pend = s.pend
  mbufBytes : t.mbufBytes = s.mbufBytes
  mbufEpoch : t.mbufEpoch = s.mbufEpoch
  events : t.events = s.events
  responses : t.responses = s.responses

/-- The bookkeeping of a completion without error (R181): idle, DONE set, ERR and ERRCODE as acceptance left them. -/
structure CompletedOk (s t : State) : Prop where
  busy : t.busy = false
  done : t.irqStat.done = true
  err : t.err = s.err
  errcode : t.errcode = s.errcode
  irqErr : t.irqStat.err = s.irqStat.err

/-- The bookkeeping of a completion with error `e` (R181). -/
structure CompletedError (e : ErrCode) (t : State) : Prop where
  busy : t.busy = false
  done : t.irqStat.done = true
  err : t.err = true
  errcode : t.errcode = e
  irqErr : t.irqStat.err = true

/-- The state less its secrets: the words of the write-only sets and the Poly1305 unit (R35, R215). -/
def State.publicView (s : State) : State :=
  { s with
    key := { words := Vector.replicate 8 0#32, valid := s.key.valid }
    nonce := { words := Vector.replicate 3 0#32, valid := s.nonce.valid }
    pkey := { words := Vector.replicate 8 0#32, valid := s.pkey.valid }
    reftag := { words := Vector.replicate 4 0#32, valid := s.reftag.valid }
    unit := .zero }

/-- The two states differ in secrets at most. -/
def SamePublic (s t : State) : Prop := s.publicView = t.publicView

end Sys2Proof.Machine
end

