-- ==== Sys2Proof/Certificates/Slice0/Obligations.lean ====
section
/-! DEFINITION. Obligations.lean: the statements about the engine, in the order of OBLIGATIONS.json. -/

open Sys2Proof Sys2Proof.Machine

/-! ## Encoding (30_encoding.md) -/

/-- The eight command words of the opcode map, written out from its match column (and WIPE.ZM's from its text), decode
to their commands (30_encoding.md section 2). -/
def Obligations.HandWrittenWordsDecode : Prop :=
  decode 0x00000001#32 = .ok .pInit
    ∧ decode 0x00000002#32 = .ok .pUpdate
    ∧ decode 0x00000003#32 = .ok .pFinal
    ∧ decode 0x00000004#32 = .ok .pVerify
    ∧ decode 0x00000010#32 = .ok .aEncrypt
    ∧ decode 0x00000011#32 = .ok .aDecrypt
    ∧ decode 0x0000001F#32 = .ok (.wipe false)
    ∧ decode 0x0000011F#32 = .ok (.wipe true)

/-- R92: a word is legal exactly when one row of the opcode map matches it, and it decodes to that row's command;
every other word is illegal. -/
def Obligations.LegalWordsMatchOneRow : Prop :=
  (∀ w : Word, (∃ i, decode w = .ok i) ↔ (matchingRows w).length = 1)
    ∧ (∀ (w : Word) (i : Instr), decode w = .ok i → (matchingRows w).map (·.mnemonic) = [i.mnemonic])
    ∧ (∀ w : Word, (∃ e, decode w = .error e) ↔ (matchingRows w).length ≠ 1)

/-- R94: which words are illegal, that one is accepted like any other, and that its completion changes nothing but the
completion bookkeeping, with error ILLEGAL_CMD. -/
def Obligations.IllegalWordsCompleteWithIllegalCmd : Prop :=
  (∀ w : Word, (∃ e, decode w = .error e) ↔
      (((w.extractLsb' 0 8).toNat = 0x00
          ∨ (0x05 ≤ (w.extractLsb' 0 8).toNat ∧ (w.extractLsb' 0 8).toNat ≤ 0x0F)
          ∨ (0x12 ≤ (w.extractLsb' 0 8).toNat ∧ (w.extractLsb' 0 8).toNat ≤ 0x1E)
          ∨ 0x20 ≤ (w.extractLsb' 0 8).toNat)
        ∨ w.extractLsb' 9 23 ≠ 0#23
        ∨ (w.getLsbD 8 = true ∧ w.extractLsb' 0 8 ≠ 0x1F#8)))
    ∧ (∀ (s : State) (w : Word), s.busy = false →
        ∃ t, hostAccess (.write .w32 0x010 w) s = .next t ∧ t.busy = true ∧ t.pend = w)
    ∧ (∀ (s : State) (e : IllegalWord), s.busy = true → decode s.pend = .error e →
        engineTurn s = .next
          { s with
            busy := false, err := true, errcode := .illegalCmd,
            irqStat := { s.irqStat with done := true, err := true } })

/-- Decoding and encoding agree in both directions: a word decodes to a command exactly when it is that command's
word, and no bit of a word is dropped when it is split into its fields and put together again (30_encoding.md
sections 1 and 2). -/
def Obligations.DecodeInvertsEncode : Prop :=
  (∀ (w : Word) (i : Instr), decode w = .ok i ↔ w = encode i)
    ∧ (∀ w : Word, (Cmd32.ofWord w).toWord = w)
    ∧ (∀ c : Cmd32, Cmd32.ofWord c.toWord = c)

/-! ## The step, acceptance and completion (42_maintenance.md section 1) -/

/-- When the engine is busy and its accepted word decodes, the engine's turn is `exec` of the decoded command: at an
engine event, with that event used up, and when no event is left (log 5). -/
def Obligations.StepRunsTheDecodedCommand : Prop :=
  ∀ (s : State) (i : Instr), s.busy = true → decode s.pend = .ok i →
    (s.events = [] → step s = exec i s)
      ∧ (∀ rest, s.events = .engine :: rest → step s = exec i { s with events := rest })

/-- The model's way to place a command (log 6): the next step after `withFetchWord` of a command's word is that
command, run from the state acceptance leaves. -/
def Obligations.FetchedWordRunsNext : Prop :=
  ∀ (s : State) (i : Instr), step (s.withFetchWord 32 (encode i).toNat) = exec i (s.accept (encode i))

/-- R180: a legal host write to CMD, idle (accepted, whatever the word) and busy (refused); nothing else changes. (The
host's recorded answer, `responses`, is log 7 and left out here.) -/
def Obligations.AcceptanceOfACommandWord : Prop :=
  ∀ (s : State) (w : Word),
    ∃ t, hostAccess (.write .w32 0x010 w) s = .next t
      ∧ (s.busy = true →
        { t with responses := s.responses } = { s with irqStat := { s.irqStat with werr := true } })
      ∧ (s.busy = false →
        { t with responses := s.responses }
          = { s with busy := true, pend := w, err := false, errcode := .noError, tagMatch := false })

/-- "Every completion ends with either ERRCODE = 0 and ERR = 0, or a nonzero ERRCODE and ERR = 1. The two cases also
differ in IRQ_STAT.ERR" (42_maintenance.md section 1): in every state that meets the invariant, with a command pending,
the engine's turn answers a next state, idle, with DONE set, and of one of the two kinds. -/
def Obligations.EveryCompletionIsRecorded : Prop :=
  ∀ s : State, s.Inv → s.busy = true →
    ∃ t, engineTurn s = .next t ∧ t.busy = false ∧ t.irqStat.done = true
      ∧ ((t.errcode = .noError ∧ t.err = false ∧ t.irqStat.err = s.irqStat.err)
        ∨ (t.errcode ≠ .noError ∧ t.err = true ∧ t.irqStat.err = true))

/-- The "raised by" column of the error table (60_exceptions.md section 1): from a state as acceptance leaves it, each
command ends with one of its own codes. -/
def Obligations.ErrorCodesOfEachCommand : Prop :=
  ∀ (i : Instr) (s t : State), s.err = false → s.errcode = .noError → exec i s = .next t →
    match i with
    | .pInit => t.errcode = .noError ∨ t.errcode = .invalidKeyLength
    | .pUpdate => t.errcode = .noError ∨ t.errcode = .sequence ∨ t.errcode = .invalidArgument
    | .pFinal => t.errcode = .noError ∨ t.errcode = .sequence
    | .pVerify => t.errcode = .noError ∨ t.errcode = .sequence ∨ t.errcode = .invalidArgument
    | .aEncrypt =>
      t.errcode = .noError ∨ t.errcode = .sequence ∨ t.errcode = .invalidArgument
        ∨ t.errcode = .underlyingPrimitiveFailure
    | .aDecrypt =>
      t.errcode = .noError ∨ t.errcode = .sequence ∨ t.errcode = .invalidArgument
        ∨ t.errcode = .authenticationFailure ∨ t.errcode = .underlyingPrimitiveFailure
    | .wipe _ => t.errcode = .noError

/-- R205: "One command reports one error: the first check that fails, in this order." -/
def Obligations.FirstFailingCheckDecidesTheCode : Prop :=
  (∀ (s : State) (e : IllegalWord), s.busy = true → decode s.pend = .error e →
      ∃ t, engineTurn s = .next t ∧ CompletedError .illegalCmd t)
    ∧ (∀ s : State,
      (s.pkey.complete = false → ∃ t, exec .pInit s = .next t ∧ CompletedError .invalidKeyLength t)
      ∧ (s.pstate ≠ .active → ∃ t, exec .pUpdate s = .next t ∧ CompletedError .sequence t)
      ∧ (s.pstate = .active → s.srcRangeOk = false →
          ∃ t, exec .pUpdate s = .next t ∧ CompletedError .invalidArgument t)
      ∧ (s.pstate ≠ .active → ∃ t, exec .pFinal s = .next t ∧ CompletedError .sequence t)
      ∧ (s.tagv = false → ∃ t, exec .pVerify s = .next t ∧ CompletedError .sequence t)
      ∧ (s.tagv = true → s.reftag.complete = false →
          ∃ t, exec .pVerify s = .next t ∧ CompletedError .invalidArgument t)
      ∧ (s.pstate = .active →
          (∃ t, exec .aEncrypt s = .next t ∧ CompletedError .sequence t)
          ∧ (∃ t, exec .aDecrypt s = .next t ∧ CompletedError .sequence t))
      ∧ (s.pstate ≠ .active → s.aeadArgs false = false →
          ∃ t, exec .aEncrypt s = .next t ∧ CompletedError .invalidArgument t)
      ∧ (s.pstate ≠ .active → s.aeadArgs true = false →
          ∃ t, exec .aDecrypt s = .next t ∧ CompletedError .invalidArgument t)
      ∧ (∀ j, s.pstate ≠ .active → s.aeadArgs false = true → j ≤ dataBlocks s.srcLen.toNat → s.port.FirstFailAt j →
          ∃ t, exec .aEncrypt s = .next t ∧ CompletedError .underlyingPrimitiveFailure t)
      ∧ (s.pstate ≠ .active → s.aeadArgs true = true → s.port.FirstFailAt 0 →
          ∃ t, exec .aDecrypt s = .next t ∧ CompletedError .underlyingPrimitiveFailure t)
      ∧ (s.pstate ≠ .active → s.aeadArgs true = true → s.port.drawAt 0 = false →
          s.reftagBytes.toList ≠ s.expectedTag s.srcBytes →
          ∃ t, exec .aDecrypt s = .next t ∧ CompletedError .authenticationFailure t)
      ∧ (∀ j, s.pstate ≠ .active → s.aeadArgs true = true → s.reftagBytes.toList = s.expectedTag s.srcBytes →
          1 ≤ j → j ≤ dataBlocks s.srcLen.toNat → s.port.FirstFailAt j →
          ∃ t, exec .aDecrypt s = .next t ∧ CompletedError .underlyingPrimitiveFailure t)
      ∧ (∀ zm, ∃ t, exec (.wipe zm) s = .next t ∧ CompletedOk s t))

/-! ## The Poly1305 datapath (40_poly1305.md section 1) -/

/-- R113: the value law of BLOCK for any contents of the limb registers and any 16-byte block, the limb bounds after
it, and, with r's limbs below 2^26, the bounds of every partial product and of every d_i, so that the 64-bit
accumulators never overflow: each holds the exact sum. -/
def Obligations.BlockValueLaw : Prop :=
  ∀ (h r : Limbs) (m : Bytes) (hb : Bool), m.length = 16 →
    (block h r m hb).value % primeP = ((h.value + leInt m + hb.toNat * 2 ^ 128) * r.value) % primeP
      ∧ (block h r m hb).Tight
      ∧ (r.Below26 →
        (∀ a ∈ [(addBlock h m hb).d0, (addBlock h m hb).d1, (addBlock h m hb).d2, (addBlock h m hb).d3,
            (addBlock h m hb).d4],
          ∀ x ∈ [r.l0, r.l1, r.l2, r.l3, r.l4], a.toNat * x.toNat < 2 ^ 57 ∧ a.toNat * (5 * x.toNat) < 2 ^ 57)
        ∧ (∀ d ∈ [(mulR (addBlock h m hb) r).d0, (mulR (addBlock h m hb) r).d1, (mulR (addBlock h m hb) r).d2,
            (mulR (addBlock h m hb) r).d3, (mulR (addBlock h m hb) r).d4], d.toNat < 2 ^ 60)
        ∧ (mulR (addBlock h m hb) r).d0.toNat
            = (addBlock h m hb).d0.toNat * r.l0.toNat + (addBlock h m hb).d1.toNat * (5 * r.l4.toNat)
              + (addBlock h m hb).d2.toNat * (5 * r.l3.toNat) + (addBlock h m hb).d3.toNat * (5 * r.l2.toNat)
              + (addBlock h m hb).d4.toNat * (5 * r.l1.toNat)
        ∧ (mulR (addBlock h m hb) r).d1.toNat
            = (addBlock h m hb).d0.toNat * r.l1.toNat + (addBlock h m hb).d1.toNat * r.l0.toNat
              + (addBlock h m hb).d2.toNat * (5 * r.l4.toNat) + (addBlock h m hb).d3.toNat * (5 * r.l3.toNat)
              + (addBlock h m hb).d4.toNat * (5 * r.l2.toNat)
        ∧ (mulR (addBlock h m hb) r).d2.toNat
            = (addBlock h m hb).d0.toNat * r.l2.toNat + (addBlock h m hb).d1.toNat * r.l1.toNat
              + (addBlock h m hb).d2.toNat * r.l0.toNat + (addBlock h m hb).d3.toNat * (5 * r.l4.toNat)
              + (addBlock h m hb).d4.toNat * (5 * r.l3.toNat)
        ∧ (mulR (addBlock h m hb) r).d3.toNat
            = (addBlock h m hb).d0.toNat * r.l3.toNat + (addBlock h m hb).d1.toNat * r.l2.toNat
              + (addBlock h m hb).d2.toNat * r.l1.toNat + (addBlock h m hb).d3.toNat * r.l0.toNat
              + (addBlock h m hb).d4.toNat * (5 * r.l4.toNat)
        ∧ (mulR (addBlock h m hb) r).d4.toNat
            = (addBlock h m hb).d0.toNat * r.l4.toNat + (addBlock h m hb).d1.toNat * r.l3.toNat
              + (addBlock h m hb).d2.toNat * r.l2.toNat + (addBlock h m hb).d3.toNat * r.l1.toNat
              + (addBlock h m hb).d4.toNat * r.l0.toNat)

/-- The value law of FULL_REDUCE, `Σ w_j·2^(32j) = (H mod p) mod 2^128`, for limbs within the bounds BLOCK leaves
(40_poly1305.md section 1). -/
def Obligations.FullReduceValueLaw : Prop :=
  ∀ h : Limbs, h.Tight → maskValue (fullReduce h) = h.value % primeP % 2 ^ 128

/-- The value law of ADD_MASK: the mask is added modulo 2^128 and the sum serialized little-endian (40_poly1305.md
section 1). -/
def Obligations.AddMaskValueLaw : Prop :=
  ∀ w s : Vector Word 4, addMask w s = leBytes ((maskValue w + maskValue s) % 2 ^ 128) 16

/-- ABSORB is absorbing one byte after the other, and absorbing two strings is absorbing their concatenation: a stream's
unit does not depend on how the message was split (40_poly1305.md section 1). -/
def Obligations.AbsorbIsIndependentOfChunking : Prop :=
  ∀ (u : PolyUnit) (x y : Bytes), u.TailZero →
    absorb u x = x.foldl absorbByte u ∧ absorb (absorb u x) y = absorb u (x ++ y)

/-! ## The MAC commands (40_poly1305.md section 2) -/

/-- P_INIT's result and completion, and its error path, with the clamped multiplier and the mask that LOAD_KEY loads, as
values (40_poly1305.md sections 1 and 2). -/
def Obligations.PInitLoadsTheClampedKey : Prop :=
  ∀ s : State,
    (s.pkey.complete = true →
      ∃ t, exec .pInit s = .next t ∧ CompletedOk s t
        ∧ t.pstate = .active ∧ t.unit.h = .zero ∧ t.unit.buf.toList = zeros 16 ∧ t.unit.leftover = 0#4
        ∧ t.unit.r.value = keyMultiplier s.pkeyBytes.toList ∧ t.unit.r.Below26
        ∧ maskValue t.unit.s = leInt (slice s.pkeyBytes.toList 16 32)
        ∧ t.pkey = .wiped ∧ t.tag = s.tag ∧ t.tagv = s.tagv ∧ t.tagMatch = s.tagMatch)
    ∧ (s.pkey.complete = false →
      ∃ t, exec .pInit s = .next t ∧ CompletedError .invalidKeyLength t
        ∧ t.unit = s.unit ∧ t.pstate = s.pstate ∧ t.pkey = .wiped
        ∧ t.tag = s.tag ∧ t.tagv = s.tagv ∧ t.tagMatch = s.tagMatch)

/-- P_UPDATE (40_poly1305.md section 2): it absorbs the source range and stays ACTIVE; a zero length changes nothing whatever SRC_OFF; both
error paths leave everything but the bookkeeping as it was; the range check does not wrap. -/
def Obligations.PUpdateAbsorbsTheRange : Prop :=
  ∀ s : State,
    (s.pstate = .active → s.srcLen = 0#32 ∨ s.srcOff.toNat + s.srcLen.toNat ≤ s.mbufBytes →
      ∃ t, exec .pUpdate s = .next t ∧ CompletedOk s t
        ∧ t.unit = absorb s.unit (s.memRead s.srcOff.toNat s.srcLen.toNat) ∧ t.pstate = .active
        ∧ t.tag = s.tag ∧ t.tagv = s.tagv ∧ t.tagMatch = s.tagMatch
        ∧ (s.srcLen = 0#32 → t.unit = s.unit))
    ∧ (s.pstate ≠ .active → exec .pUpdate s = .next (s.finishError .sequence))
    ∧ (s.pstate = .active → s.srcLen ≠ 0#32 → s.mbufBytes < s.srcOff.toNat + s.srcLen.toNat →
        exec .pUpdate s = .next (s.finishError .invalidArgument))

/-- P_FINAL (40_poly1305.md section 2): from ACTIVE it completes with the tag valid, the unit wiped and FINALIZED; the tag is
`Poly1305(k, m)` for the key and message the unit has absorbed; elsewhere it changes nothing but the bookkeeping. -/
def Obligations.PFinalOutputsTheTagAndWipes : Prop :=
  ∀ s : State,
    (s.pstate = .active →
      ∃ t, exec .pFinal s = .next t ∧ CompletedOk s t
        ∧ t.tagv = true ∧ t.pstate = .finalized ∧ t.unit = .zero ∧ t.tagMatch = s.tagMatch
        ∧ (∀ k m : Bytes, Absorbed k m s.unit → t.tagBytes.toList = poly1305 k m))
    ∧ (s.pstate ≠ .active → exec .pFinal s = .next (s.finishError .sequence))

/-- P_VERIFY (40_poly1305.md section 2): MATCH is 1 exactly when all sixteen bytes agree, a mismatch is no error, and REFTAG is consumed on
every path. -/
def Obligations.PVerifyComparesAllBytes : Prop :=
  ∀ s : State,
    (s.tagv = true → s.reftag.complete = true →
      ∃ t, exec .pVerify s = .next t ∧ CompletedOk s t
        ∧ (t.tagMatch = true ↔ s.tagBytes = s.reftagBytes)
        ∧ t.reftag = .wiped ∧ t.tag = s.tag ∧ t.tagv = true)
    ∧ (s.tagv = false → exec .pVerify s = .next ({ s with reftag := .wiped }.finishError .sequence))
    ∧ (s.tagv = true → s.reftag.complete = false →
        exec .pVerify s = .next ({ s with reftag := .wiped }.finishError .invalidArgument))

/-- R13: `ct_eq` is true exactly when the OR of all sixteen bytewise XORs is zero, that is, when the strings agree. -/
def Obligations.CtEqDecidesEquality : Prop :=
  ∀ a b : Vector Byte 16,
    (ctEq a.toList b.toList = true ↔ ∀ (i : Nat) (h : i < 16), a[i] ^^^ b[i] = 0#8)
      ∧ (ctEq a.toList b.toList = true ↔ a = b)

/-- R117, the streaming law: after P_INIT with PKEY = k and any P_UPDATEs, whatever else happened in between that
leaves the unit alone, the unit has absorbed the concatenation m in the sense of the rule's list, and P_FINAL
completes without error and writes TAG = Poly1305(k, m). -/
def Obligations.StreamedTagIsPoly1305 : Prop :=
  ∀ (k m : Bytes) (s : State), Streamed k m s →
    s.pstate = .active ∧ Absorbed k m s.unit
      ∧ ∃ t, exec .pFinal s = .next t ∧ t.tagBytes.toList = poly1305 k m ∧ t.tagv = true ∧ CompletedOk s t

/-- The one-shot MAC pass of the AEAD commands computes `Poly1305(k, m)` for every 32-byte key and every message
(41_aead.md section 1). -/
def Obligations.OneShotMacIsPoly1305 : Prop :=
  ∀ k m : Bytes, k.length = 32 → polyOneshot k m = poly1305 k m

/-! ## The AEAD commands (41_aead.md) -/

/-- The seven conditions of AEAD_ARGS, on naturals, without wrap (41_aead.md section 1). -/
def Obligations.AeadArgumentConditions : Prop :=
  ∀ (s : State) (needsRef : Bool),
    s.aeadArgs needsRef = true ↔
      (s.key.valid = 0xFF#8 ∧ s.nonce.valid = 0x7#3)
      ∧ (needsRef = true → s.reftag.valid = 0xF#4)
      ∧ (s.srcLen.toNat = 0 ∨ s.srcOff.toNat + s.srcLen.toNat ≤ s.mbufBytes)
      ∧ (s.aadLen.toNat = 0 ∨ s.aadOff.toNat + s.aadLen.toNat ≤ s.mbufBytes)
      ∧ (s.srcLen.toNat = 0 ∨ s.dstOff.toNat + s.srcLen.toNat ≤ s.mbufBytes)
      ∧ ¬(0 < s.srcLen.toNat ∧ s.srcOff.toNat < s.dstOff.toNat + s.srcLen.toNat
          ∧ s.dstOff.toNat < s.srcOff.toNat + s.srcLen.toNat ∧ s.srcOff ≠ s.dstOff)
      ∧ ¬(0 < s.aadLen.toNat ∧ 0 < s.srcLen.toNat ∧ s.aadOff.toNat < s.dstOff.toNat + s.srcLen.toNat
          ∧ s.dstOff.toNat < s.aadOff.toNat + s.aadLen.toNat)

/-- A_ENCRYPT's result and completion (41_aead.md section 2): past its checks, with no failing draw, the destination
range holds the plaintext XOR the data keystream from counter 1, TAG holds Poly1305 of the transcript under the one-time
key of counter 0, and the common exit has wiped the unit and consumed KEY and NONCE. -/
def Obligations.EncryptSealsThePlaintext : Prop :=
  ∀ s : State, s.pstate ≠ .active → s.aeadArgs false = true → s.port.OkThrough (dataBlocks s.srcLen.toNat + 1) →
    ∃ t, exec .aEncrypt s = .next t ∧ CompletedOk s t
      ∧ t.dstBytes = s.cipherOutput
      ∧ t.tagBytes.toList = s.expectedTag s.cipherOutput ∧ t.tagv = true
      ∧ t.unit = .zero ∧ t.pstate = .empty ∧ t.key = .wiped ∧ t.nonce = .wiped ∧ t.tagMatch = s.tagMatch
      ∧ SameMbufOutside s.dstOff.toNat s.srcLen.toNat s t

/-- A_ENCRYPT's label UPF (41_aead.md section 2): whichever counter failed first, the whole destination range is zero,
TAG is zero and invalid, and the common exit has run. -/
def Obligations.EncryptPortFailureZeroesTheOutput : Prop :=
  ∀ (s : State) (j : Nat), s.pstate ≠ .active → s.aeadArgs false = true → j ≤ dataBlocks s.srcLen.toNat →
    s.port.FirstFailAt j →
    ∃ t, exec .aEncrypt s = .next t ∧ CompletedError .underlyingPrimitiveFailure t
      ∧ t.dstBytes = zeros s.srcLen.toNat ∧ t.tag = zeroTag ∧ t.tagv = false
      ∧ t.unit = .zero ∧ t.pstate = .empty ∧ t.key = .wiped ∧ t.nonce = .wiped ∧ t.tagMatch = s.tagMatch
      ∧ SameMbufOutside s.dstOff.toNat s.srcLen.toNat s t

/-- A_DECRYPT's result and completion (41_aead.md section 2): past its checks, with the received tag equal to the tag
recomputed over the ciphertext and no failing draw, MATCH is 1, the destination range holds the plaintext, and TAG is
zero and invalid. -/
def Obligations.DecryptOpensAnAuthenticCiphertext : Prop :=
  ∀ s : State, s.pstate ≠ .active → s.aeadArgs true = true → s.port.OkThrough (dataBlocks s.srcLen.toNat + 1) →
    s.reftagBytes.toList = s.expectedTag s.srcBytes →
    ∃ t, exec .aDecrypt s = .next t ∧ CompletedOk s t
      ∧ t.tagMatch = true ∧ t.dstBytes = s.cipherOutput ∧ t.tag = zeroTag ∧ t.tagv = false
      ∧ t.unit = .zero ∧ t.pstate = .empty ∧ t.key = .wiped ∧ t.nonce = .wiped ∧ t.reftag = .wiped
      ∧ SameMbufOutside s.dstOff.toNat s.srcLen.toNat s t

/-- Verify-then-decrypt (41_aead.md section 2): when the recomputed tag differs from the received one, A_DECRYPT ends
with AUTHENTICATION_FAILURE, the whole destination range zero, MATCH 0, no tag exposed, and no data keystream ever
requested. -/
def Obligations.DecryptRejectsAForgedCiphertext : Prop :=
  ∀ s : State, s.pstate ≠ .active → s.aeadArgs true = true → s.port.drawAt 0 = false →
    s.reftagBytes.toList ≠ s.expectedTag s.srcBytes →
    ∃ t, exec .aDecrypt s = .next t ∧ CompletedError .authenticationFailure t
      ∧ t.tagMatch = false ∧ t.dstBytes = zeros s.srcLen.toNat ∧ t.tag = zeroTag ∧ t.tagv = false
      ∧ t.unit = .zero ∧ t.pstate = .empty ∧ t.key = .wiped ∧ t.nonce = .wiped ∧ t.reftag = .wiped
      ∧ t.port.log = s.port.log ++ portRequests s.keyBytes s.nonceBytes 1
      ∧ SameMbufOutside s.dstOff.toNat s.srcLen.toNat s t

/-- A_DECRYPT's label UPF (41_aead.md section 2), reached from counter 0 or, after the tags matched, from a data
counter. -/
def Obligations.DecryptPortFailureZeroesTheOutput : Prop :=
  ∀ (s : State) (j : Nat), s.pstate ≠ .active → s.aeadArgs true = true → j ≤ dataBlocks s.srcLen.toNat →
    s.port.FirstFailAt j → (j = 0 ∨ s.reftagBytes.toList = s.expectedTag s.srcBytes) →
    ∃ t, exec .aDecrypt s = .next t ∧ CompletedError .underlyingPrimitiveFailure t
      ∧ t.tagMatch = false ∧ t.dstBytes = zeros s.srcLen.toNat ∧ t.tag = zeroTag ∧ t.tagv = false
      ∧ t.unit = .zero ∧ t.pstate = .empty ∧ t.key = .wiped ∧ t.nonce = .wiped ∧ t.reftag = .wiped
      ∧ SameMbufOutside s.dstOff.toNat s.srcLen.toNat s t

/-- R151: the counters the port sees, in order: all of 0..nb when no draw fails (and, for A_DECRYPT, the tags match),
those up to the first failing one otherwise, counter 0 alone when the tags differ, and none for any other command. The
requests are read off the port's record (log 7), for every sequence of draws (log 4). -/
def Obligations.PortRequestOrder : Prop :=
  (∀ (s t : State), s.pstate ≠ .active → s.aeadArgs false = true → exec .aEncrypt s = .next t →
      (s.port.OkThrough (dataBlocks s.srcLen.toNat + 1) →
        t.port.log = s.port.log ++ portRequests s.keyBytes s.nonceBytes (dataBlocks s.srcLen.toNat + 1))
      ∧ (∀ j, j ≤ dataBlocks s.srcLen.toNat → s.port.FirstFailAt j →
        t.port.log = s.port.log ++ portRequests s.keyBytes s.nonceBytes (j + 1)))
    ∧ (∀ (s t : State), s.pstate ≠ .active → s.aeadArgs true = true → exec .aDecrypt s = .next t →
      (s.port.FirstFailAt 0 → t.port.log = s.port.log ++ portRequests s.keyBytes s.nonceBytes 1)
      ∧ (s.port.drawAt 0 = false → s.reftagBytes.toList ≠ s.expectedTag s.srcBytes →
        t.port.log = s.port.log ++ portRequests s.keyBytes s.nonceBytes 1)
      ∧ (s.reftagBytes.toList = s.expectedTag s.srcBytes → s.port.OkThrough (dataBlocks s.srcLen.toNat + 1) →
        t.port.log = s.port.log ++ portRequests s.keyBytes s.nonceBytes (dataBlocks s.srcLen.toNat + 1))
      ∧ (∀ j, s.reftagBytes.toList = s.expectedTag s.srcBytes → j ≤ dataBlocks s.srcLen.toNat →
        s.port.FirstFailAt j → t.port.log = s.port.log ++ portRequests s.keyBytes s.nonceBytes (j + 1)))
    ∧ (∀ (s t : State),
      (s.pstate = .active ∨ s.aeadArgs false = false → exec .aEncrypt s = .next t → t.port = s.port)
      ∧ (s.pstate = .active ∨ s.aeadArgs true = false → exec .aDecrypt s = .next t → t.port = s.port))
    ∧ (∀ (i : Instr) (s t : State), i ≠ .aEncrypt → i ≠ .aDecrypt → exec i s = .next t → t.port = s.port)

/-- A failing sequence or argument check makes the AEAD commands consume their input sets and record the error, and
change nothing else: no partial state mutation (41_aead.md sections 1 and 2). -/
def Obligations.AeadCheckFailuresOnlyConsume : Prop :=
  ∀ s : State,
    (s.pstate = .active →
      exec .aEncrypt s = .next ({ s with key := .wiped, nonce := .wiped }.finishError .sequence)
      ∧ exec .aDecrypt s = .next ({ s with key := .wiped, nonce := .wiped, reftag := .wiped }.finishError .sequence))
    ∧ (s.pstate ≠ .active → s.aeadArgs false = false →
      exec .aEncrypt s = .next ({ s with key := .wiped, nonce := .wiped }.finishError .invalidArgument))
    ∧ (s.pstate ≠ .active → s.aeadArgs true = false →
      exec .aDecrypt s
        = .next ({ s with key := .wiped, nonce := .wiped, reftag := .wiped }.finishError .invalidArgument))

/-- R175, the round trip: what A_ENCRYPT sealed without error, A_DECRYPT opens, given the same key, nonce and
associated data, the tag, and no port failure. -/
def Obligations.DecryptUndoesEncrypt : Prop :=
  ∀ s t d : State, exec .aEncrypt s = .next t → s.err = false → t.err = false →
    d.pstate ≠ .active → d.aeadArgs true = true → d.port.OkThrough (dataBlocks d.srcLen.toNat + 1) →
    d.keyBytes = s.keyBytes → d.nonceBytes = s.nonceBytes → d.aadBytes = s.aadBytes →
    d.srcBytes = t.dstBytes → d.reftagBytes = t.tagBytes →
    ∃ u, exec .aDecrypt d = .next u ∧ CompletedOk d u ∧ u.tagMatch = true ∧ u.dstBytes = s.srcBytes

/-- R81: in place (DST_OFF = SRC_OFF) is legal when the input sets are complete, both ranges lie in MBUF and the source
does not overlap the associated data; it then gives the same output bytes, tag, MATCH, error and port requests as any
legal out-of-place destination `d`, for A_ENCRYPT and for A_DECRYPT; a destination that partly overlaps the source, or
overlaps the associated data, is rejected. -/
def Obligations.InPlaceEqualsOutOfPlace : Prop :=
  ∀ (s : State) (d : Word), s.pstate ≠ .active →
    (overlap s.aadOff.toNat s.aadLen.toNat s.srcOff.toNat s.srcLen.toNat = false →
      (∀ needsRef : Bool, s.key.complete = true → s.nonce.complete = true →
        (needsRef = true → s.reftag.complete = true) →
        rangeOk s.mbufBytes s.srcOff.toNat s.srcLen.toNat = true →
        rangeOk s.mbufBytes s.aadOff.toNat s.aadLen.toNat = true →
        { s with dstOff := s.srcOff }.aeadArgs needsRef = true)
      ∧ ({ s with dstOff := d }.aeadArgs false = true →
        ∃ t u, exec .aEncrypt { s with dstOff := s.srcOff } = .next t
          ∧ exec .aEncrypt { s with dstOff := d } = .next u
          ∧ t.dstBytes = u.dstBytes ∧ t.tag = u.tag ∧ t.tagv = u.tagv ∧ t.tagMatch = u.tagMatch
          ∧ t.err = u.err ∧ t.errcode = u.errcode ∧ t.port = u.port)
      ∧ ({ s with dstOff := d }.aeadArgs true = true →
        ∃ t u, exec .aDecrypt { s with dstOff := s.srcOff } = .next t
          ∧ exec .aDecrypt { s with dstOff := d } = .next u
          ∧ t.dstBytes = u.dstBytes ∧ t.tag = u.tag ∧ t.tagv = u.tagv ∧ t.tagMatch = u.tagMatch
          ∧ t.err = u.err ∧ t.errcode = u.errcode ∧ t.port = u.port))
    ∧ ((overlap s.srcOff.toNat s.srcLen.toNat s.dstOff.toNat s.srcLen.toNat = true ∧ s.srcOff ≠ s.dstOff)
        ∨ overlap s.aadOff.toNat s.aadLen.toNat s.dstOff.toNat s.srcLen.toNat = true →
      (∃ t, exec .aEncrypt s = .next t ∧ CompletedError .invalidArgument t)
      ∧ (∃ t, exec .aDecrypt s = .next t ∧ CompletedError .invalidArgument t))

/-! ## WIPE (42_maintenance.md section 2) -/

/-- WIPE and WIPE.ZM complete in every state without error and leave every register that held a secret zero, the unit
EMPTY; with ZM every MBUF byte reads 0 and nothing beyond MBUF is written, without it MBUF is unchanged; the operand
registers, IRQ_EN and the port are unchanged; a second WIPE changes nothing more (42_maintenance.md section 2). -/
def Obligations.WipeErasesEverySecret : Prop :=
  ∀ (s : State) (zm : Bool),
    ∃ t, exec (.wipe zm) s = .next t ∧ CompletedOk s t
      ∧ t.key = .wiped ∧ t.nonce = .wiped ∧ t.pkey = .wiped ∧ t.reftag = .wiped
      ∧ t.tag = zeroTag ∧ t.tagv = false ∧ t.tagMatch = false ∧ t.unit = .zero ∧ t.pstate = .empty
      ∧ (zm = true → (∀ o, o < s.mbufBytes → t.readByte o = 0#8) ∧ SameMbufOutside 0 s.mbufBytes s t)
      ∧ (zm = false → SameMbuf s t)
      ∧ SameControl s t ∧ t.port = s.port
      ∧ exec (.wipe zm) t = .next t

/-! ## Frames (42_maintenance.md section 3) -/

/-- No command writes the operand registers, IRQ_EN or IRQ_STAT.WERR, and none touches what lies outside the engine. (That
the accepted word `pend` keeps its value too is the model's choice, log 10.) -/
def Obligations.NoCommandWritesTheControlRegisters : Prop :=
  ∀ (i : Instr) (s t : State), exec i s = .next t → SameControl s t

/-- The frame of the four MAC commands and of WIPE without ZM: every MBUF byte, and every register but those the
command names. P_INIT: the unit, PSTATE, PKEY. P_UPDATE: the unit. P_FINAL: the unit, PSTATE, TAG, TAGV. P_VERIFY:
MATCH, REFTAG. WIPE: all of these, KEY and NONCE. -/
def Obligations.MacCommandFrames : Prop :=
  ∀ (i : Instr) (s t : State), i ≠ .aEncrypt → i ≠ .aDecrypt → i ≠ .wipe true → exec i s = .next t →
    SameMbuf s t ∧ t.port = s.port
      ∧ (i ≠ .wipe false → t.key = s.key ∧ t.nonce = s.nonce)
      ∧ (i ≠ .wipe false → i ≠ .pInit → t.pkey = s.pkey)
      ∧ (i ≠ .wipe false → i ≠ .pVerify → t.reftag = s.reftag ∧ t.tagMatch = s.tagMatch)
      ∧ (i ≠ .wipe false → i ≠ .pFinal → t.tag = s.tag ∧ t.tagv = s.tagv)
      ∧ (i = .pUpdate ∨ i = .pVerify → t.pstate = s.pstate)
      ∧ (i = .pVerify → t.unit = s.unit)

/-- The frame of the AEAD commands: PKEY always; REFTAG and MATCH for A_ENCRYPT; every MBUF byte outside the
destination range MBUF[DST_OFF : DST_OFF + SRC_LEN], and every byte of MBUF when a check fails. -/
def Obligations.AeadCommandFrames : Prop :=
  ∀ s t : State,
    (exec .aEncrypt s = .next t →
      t.pkey = s.pkey ∧ t.reftag = s.reftag ∧ t.tagMatch = s.tagMatch
      ∧ SameMbufOutside s.dstOff.toNat s.srcLen.toNat s t
      ∧ (s.pstate = .active ∨ s.aeadArgs false = false →
          SameMbuf s t ∧ t.unit = s.unit ∧ t.pstate = s.pstate ∧ t.tag = s.tag ∧ t.tagv = s.tagv))
    ∧ (exec .aDecrypt s = .next t →
      t.pkey = s.pkey
      ∧ SameMbufOutside s.dstOff.toNat s.srcLen.toNat s t
      ∧ (s.pstate = .active ∨ s.aeadArgs true = false →
          SameMbuf s t ∧ t.unit = s.unit ∧ t.pstate = s.pstate ∧ t.tag = s.tag ∧ t.tagv = s.tagv
          ∧ t.tagMatch = s.tagMatch))

/-! ## Rules over all commands -/

/-- R39: every command consumes exactly the input sets it names, whatever its outcome, and an illegal word none. -/
def Obligations.CommandsConsumeTheirInputSets : Prop :=
  (∀ (i : Instr) (s t : State), exec i s = .next t →
    match i with
    | .pInit => t.pkey = .wiped ∧ t.key = s.key ∧ t.nonce = s.nonce ∧ t.reftag = s.reftag
    | .pUpdate => t.pkey = s.pkey ∧ t.key = s.key ∧ t.nonce = s.nonce ∧ t.reftag = s.reftag
    | .pFinal => t.pkey = s.pkey ∧ t.key = s.key ∧ t.nonce = s.nonce ∧ t.reftag = s.reftag
    | .pVerify => t.pkey = s.pkey ∧ t.key = s.key ∧ t.nonce = s.nonce ∧ t.reftag = .wiped
    | .aEncrypt => t.pkey = s.pkey ∧ t.key = .wiped ∧ t.nonce = .wiped ∧ t.reftag = s.reftag
    | .aDecrypt => t.pkey = s.pkey ∧ t.key = .wiped ∧ t.nonce = .wiped ∧ t.reftag = .wiped
    | .wipe _ => t.pkey = .wiped ∧ t.key = .wiped ∧ t.nonce = .wiped ∧ t.reftag = .wiped)
  ∧ (∀ (s t : State) (e : IllegalWord), s.busy = true → decode s.pend = .error e → engineTurn s = .next t →
      t.pkey = s.pkey ∧ t.key = s.key ∧ t.nonce = s.nonce ∧ t.reftag = s.reftag)
  ∧ (∀ (n : Nat) (i : Nat) (h : i < n), (InputSet.wiped : InputSet n).words[i] = 0#32)
  ∧ (∀ n : Nat, (InputSet.wiped : InputSet n).valid = 0#n)

/-- R40: what sets and clears `tagv`. -/
def Obligations.TagValidBitRule : Prop :=
  (∀ (i : Instr) (s t : State), exec i s = .next t →
    match i with
    | .pFinal => (s.pstate = .active → t.tagv = true) ∧ (s.pstate ≠ .active → t.tagv = s.tagv)
    | .aEncrypt =>
      (s.pstate = .active ∨ s.aeadArgs false = false → t.tagv = s.tagv)
      ∧ (s.pstate ≠ .active → s.aeadArgs false = true →
        (t.tagv = true ∧ CompletedOk s t) ∨ (t.tagv = false ∧ CompletedError .underlyingPrimitiveFailure t))
    | .aDecrypt =>
      (s.pstate = .active ∨ s.aeadArgs true = false → t.tagv = s.tagv)
      ∧ (s.pstate ≠ .active → s.aeadArgs true = true → t.tagv = false)
    | .wipe _ => t.tagv = false
    | .pInit => t.tagv = s.tagv
    | .pUpdate => t.tagv = s.tagv
    | .pVerify => t.tagv = s.tagv)
  ∧ (∀ s : State, s.resetEvent.tagv = false ∧ (s.readReg .status).getLsbD 3 = s.tagv)
  ∧ (∀ (s t : State) (e : IllegalWord), s.busy = true → decode s.pend = .error e → engineTurn s = .next t →
      t.tagv = s.tagv)

/-- R37: the pstate transitions. -/
def Obligations.PstateTransitions : Prop :=
  (∀ (i : Instr) (s t : State), exec i s = .next t →
    match i with
    | .pInit => (s.pkey.complete = true → t.pstate = .active) ∧ (s.pkey.complete = false → t.pstate = s.pstate)
    | .pUpdate => t.pstate = s.pstate ∧ (s.pstate ≠ .active → t.errcode = .sequence ∧ t.unit = s.unit)
    | .pFinal =>
      (s.pstate = .active → t.pstate = .finalized)
      ∧ (s.pstate ≠ .active → t.pstate = s.pstate ∧ t.errcode = .sequence ∧ t.unit = s.unit)
    | .pVerify => t.pstate = s.pstate
    | .aEncrypt =>
      (s.pstate = .active ∨ s.aeadArgs false = false → t.pstate = s.pstate)
      ∧ (s.pstate ≠ .active → s.aeadArgs false = true → t.pstate = .empty)
    | .aDecrypt =>
      (s.pstate = .active ∨ s.aeadArgs true = false → t.pstate = s.pstate)
      ∧ (s.pstate ≠ .active → s.aeadArgs true = true → t.pstate = .empty)
    | .wipe _ => t.pstate = .empty)
  ∧ (∀ s : State, s.resetEvent.pstate = .empty)

/-- Only A_ENCRYPT and A_DECRYPT draw from the keystream port; every other command's completion is a function of the
rest of the state, whatever the port would answer (42_maintenance.md section 1). -/
def Obligations.OtherCommandsIgnoreThePort : Prop :=
  ∀ (i : Instr) (s t : State) (p : Port), i ≠ .aEncrypt → i ≠ .aDecrypt → exec i s = .next t →
    t.port = s.port ∧ exec i { s with port := p } = .next { t with port := p }

/-! ## The host window (20_memory.md) and the register views (10_state.md) -/

/-- The register map: each mapped offset is its register's and no other's, and the unmapped offsets are those listed
(20_memory.md section 3). -/
def Obligations.RegisterMapIsExact : Prop :=
  (∀ (off : Nat) (r : Reg), regAt off = some r ↔ off = r.offset)
    ∧ (∀ off : Nat, off < 0x1000 → off % 4 = 0 →
      (regAt off = none ↔
        (0x030 ≤ off ∧ off ≤ 0x03C) ∨ (0x06C ≤ off ∧ off ≤ 0x07C) ∨ (0x0C0 ≤ off ∧ off ≤ 0xFFC)))

/-- R65: the legal host accesses. -/
def Obligations.LegalHostAccesses : Prop :=
  ∀ (s : State) (w : Width) (off : Nat), off < s.windowBytes → s.mbufBytes % 4 = 0 →
    (s.legalAccess w off = true ↔
      (off < 0x1000 ∧ w = .w32 ∧ off % 4 = 0 ∧ ∃ r : Reg, r.offset = off)
      ∨ (0x1000 ≤ off ∧ (w = .w8 ∨ (w = .w16 ∧ off % 2 = 0) ∨ (w = .w32 ∧ off % 4 = 0))))

/-- An illegal access in the window gets a BusError with data 0 and changes no engine state (20_memory.md section 4);
the answer is recorded for the host (log 7). -/
def Obligations.IllegalAccessIsBusError : Prop :=
  ∀ (s : State) (a : HostAccess), a.off < s.windowBytes → s.legalAccess a.width a.off = false →
    hostAccess a s = .next { s with responses := s.responses ++ [.busError 0#32] }

/-- "No host read changes any engine state", busy or idle (20_memory.md section 4). -/
def Obligations.ReadsChangeNothing : Prop :=
  ∀ (s t : State) (w : Width) (off : Nat), hostAccess (.read w off) s = .next t →
    ∃ r, t = { s with responses := s.responses ++ [r] }

/-- R71: a legal write while busy is refused, changes nothing but WERR, and gets a normal answer (recorded, log 7), except
that writes to IRQ_EN and IRQ_STAT take effect as when idle. -/
def Obligations.WritesWhileBusyAreRefused : Prop :=
  ∀ (s : State) (w : Width) (off : Nat) (v : Word), s.busy = true → off < s.windowBytes → s.legalAccess w off = true →
    (off ≠ 0x008 → off ≠ 0x00C →
      hostAccess (.write w off v) s = .next
        { s with irqStat := { s.irqStat with werr := true }, responses := s.responses ++ [.writeOk] })
    ∧ (off = 0x008 →
      hostAccess (.write w off v) s = .next
        { s with irqEn := .ofWord v, responses := s.responses ++ [.writeOk] })
    ∧ (off = 0x00C →
      hostAccess (.write w off v) s = .next
        { s with irqStat := s.irqStat.clearBy v, responses := s.responses ++ [.writeOk] })
    ∧ (off = 0x008 ∨ off = 0x00C →
      (s.access (.write w off v)).1
        = { ({ s with busy := false }.access (.write w off v)).1 with busy := true })

/-- R72: reads while busy, in states that meet the invariant (log 12): MBUF and TAG read 0; STATUS reads BUSY = 1, ERR, MATCH and
ERRCODE 0, and the TAGV and PSTATE the state holds; every other register reads as when idle. -/
def Obligations.ReadsWhileBusyHideResults : Prop :=
  ∀ (s : State) (w : Width) (off : Nat), s.Inv → s.busy = true → off < s.windowBytes → s.legalAccess w off = true →
    (0x1000 ≤ off → (s.access (.read w off)).2 = .readOk 0#32)
    ∧ (∀ i : Fin 4, off = (Reg.tag i).offset → (s.access (.read w off)).2 = .readOk 0#32)
    ∧ (off = Reg.status.offset → ∃ v, (s.access (.read w off)).2 = .readOk v
        ∧ v.getLsbD 0 = true ∧ v.getLsbD 1 = false ∧ v.getLsbD 2 = false ∧ v.extractLsb' 8 4 = 0#4
        ∧ v.getLsbD 3 = s.tagv ∧ v.extractLsb' 4 2 = s.pstate.code)
    ∧ (∀ r : Reg, off = r.offset → r ≠ .status → (∀ i, r ≠ .tag i) →
        (s.access (.read w off)).2 = ({ s with busy := false }.access (.read w off)).2)

/-- R67: a legal write to a read-only register is ignored with a normal answer (recorded, log 7), a read of a write-only register
returns 0, and the reserved bits of IRQ_EN and IRQ_STAT read 0 and ignore writes. -/
def Obligations.ReadOnlyWriteOnlyAndReservedBits : Prop :=
  (∀ (s : State) (r : Reg) (v : Word), s.busy = false →
      r = .id ∨ r = .status ∨ r = .valid ∨ r = .mbufSize ∨ (∃ i, r = .tag i) →
      hostAccess (.write .w32 r.offset v) s = .next { s with responses := s.responses ++ [.writeOk] })
    ∧ (∀ (s : State) (r : Reg),
      r = .cmd ∨ (∃ i, r = .key i) ∨ (∃ i, r = .nonce i) ∨ (∃ i, r = .pkey i) ∨ (∃ i, r = .reftag i) →
      hostAccess (.read .w32 r.offset) s = .next { s with responses := s.responses ++ [.readOk 0#32] })
    ∧ (∀ (s : State) (v : Word),
      (s.writeReg v .irqEn).readReg .irqEn = v &&& 0x7#32
      ∧ (s.writeReg v .irqStat).readReg .irqStat = s.readReg .irqStat &&& ~~~v
      ∧ s.readReg .irqEn &&& 0xFFFFFFF8#32 = 0#32 ∧ s.readReg .irqStat &&& 0xFFFFFFF8#32 = 0#32)

/-- The operand registers (10_state.md section 2): a host write while idle is read back unchanged and changes nothing else, no command
writes them, and they are 0 after reset. -/
def Obligations.OperandRegistersReadBack : Prop :=
  (∀ (s : State) (v : Word), s.busy = false →
      hostAccess (.write .w32 0x014 v) s = .next { s with srcOff := v, responses := s.responses ++ [.writeOk] }
      ∧ hostAccess (.write .w32 0x018 v) s = .next { s with srcLen := v, responses := s.responses ++ [.writeOk] }
      ∧ hostAccess (.write .w32 0x01C v) s = .next { s with aadOff := v, responses := s.responses ++ [.writeOk] }
      ∧ hostAccess (.write .w32 0x020 v) s = .next { s with aadLen := v, responses := s.responses ++ [.writeOk] }
      ∧ hostAccess (.write .w32 0x024 v) s = .next { s with dstOff := v, responses := s.responses ++ [.writeOk] })
    ∧ (∀ s : State,
      (s.access (.read .w32 0x014)).2 = .readOk s.srcOff ∧ (s.access (.read .w32 0x018)).2 = .readOk s.srcLen
      ∧ (s.access (.read .w32 0x01C)).2 = .readOk s.aadOff ∧ (s.access (.read .w32 0x020)).2 = .readOk s.aadLen
      ∧ (s.access (.read .w32 0x024)).2 = .readOk s.dstOff)
    ∧ (∀ (i : Instr) (s t : State), exec i s = .next t →
      t.srcOff = s.srcOff ∧ t.srcLen = s.srcLen ∧ t.aadOff = s.aadOff ∧ t.aadLen = s.aadLen ∧ t.dstOff = s.dstOff)
    ∧ (∀ s : State,
      s.resetEvent.srcOff = 0#32 ∧ s.resetEvent.srcLen = 0#32 ∧ s.resetEvent.aadOff = 0#32
      ∧ s.resetEvent.aadLen = 0#32 ∧ s.resetEvent.dstOff = 0#32)

/-- A host write to a word of KEY, NONCE, PKEY or REFTAG while idle stores the word, sets its valid bit and no other's,
and changes nothing else; bytes 4i to 4i + 3 of the set are the word's, lowest first; and VALID shows the four sets'
bits at their places (10_state.md sections 2 and 4). -/
def Obligations.InputWordsAndTheirValidBits : Prop :=
  (∀ (s : State) (v : Word), s.busy = false →
      (∀ i : Fin 8, hostAccess (.write .w32 (0x040 + 4 * i.val) v) s
        = .next { s with key := s.key.write i v, responses := s.responses ++ [.writeOk] })
      ∧ (∀ i : Fin 3, hostAccess (.write .w32 (0x060 + 4 * i.val) v) s
        = .next { s with nonce := s.nonce.write i v, responses := s.responses ++ [.writeOk] })
      ∧ (∀ i : Fin 8, hostAccess (.write .w32 (0x080 + 4 * i.val) v) s
        = .next { s with pkey := s.pkey.write i v, responses := s.responses ++ [.writeOk] })
      ∧ (∀ i : Fin 4, hostAccess (.write .w32 (0x0B0 + 4 * i.val) v) s
        = .next { s with reftag := s.reftag.write i v, responses := s.responses ++ [.writeOk] }))
    ∧ (∀ (n : Nat) (x : InputSet n) (i : Fin n) (v : Word) (j : Nat) (h : j < n),
      (x.write i v).words[j] = (if j = i.val then v else x.words[j])
      ∧ (x.write i v).valid.getLsbD j = (if j = i.val then true else x.valid.getLsbD j))
    ∧ (∀ (s : State) (i : Fin 8) (j : Fin 4),
      s.keyBytes[4 * i.val + j.val] = s.key.words[i].extractLsb' (8 * j.val) 8
      ∧ s.pkeyBytes[4 * i.val + j.val] = s.pkey.words[i].extractLsb' (8 * j.val) 8)
    ∧ (∀ (s : State) (i : Fin 3) (j : Fin 4),
      s.nonceBytes[4 * i.val + j.val] = s.nonce.words[i].extractLsb' (8 * j.val) 8)
    ∧ (∀ (s : State) (i : Fin 4) (j : Fin 4),
      s.reftagBytes[4 * i.val + j.val] = s.reftag.words[i].extractLsb' (8 * j.val) 8
      ∧ s.tagBytes[4 * i.val + j.val] = s.tag[i].extractLsb' (8 * j.val) 8)
    ∧ (∀ s : State,
      (s.readReg .valid).extractLsb' 0 8 = s.key.valid ∧ (s.readReg .valid).extractLsb' 8 3 = s.nonce.valid
      ∧ (s.readReg .valid).extractLsb' 11 5 = 0#5 ∧ (s.readReg .valid).extractLsb' 16 8 = s.pkey.valid
      ∧ (s.readReg .valid).extractLsb' 24 4 = s.reftag.valid ∧ (s.readReg .valid).extractLsb' 28 4 = 0#4)

/-- MBUF on the bus, idle (20_memory.md sections 1, 2 and 4): a legal write at window offset 0x1000 + o stores data byte
k at MBUF byte o + k and nothing else; a legal read carries MBUF byte o + k in data bits [8k+7 : 8k]. (That a narrow
read answers 0 above its bytes is the model's choice, log 17.) -/
def Obligations.MbufBusAccessIsLittleEndian : Prop :=
  (∀ (s : State) (w : Width) (o : Nat) (v : Word), s.busy = false → s.legalAccess w (0x1000 + o) = true →
      ∃ t, hostAccess (.write w (0x1000 + o) v) s = .next t
        ∧ (∀ k, k < w.bytes → t.readByte (o + k) = v.extractLsb' (8 * k) 8)
        ∧ SameMbufOutside o w.bytes s t
        ∧ t = { s with mbuf := t.mbuf, responses := s.responses ++ [.writeOk] })
    ∧ (∀ (s : State) (w : Width) (o : Nat), s.busy = false → s.legalAccess w (0x1000 + o) = true →
      ∃ v, hostAccess (.read w (0x1000 + o)) s = .next { s with responses := s.responses ++ [.readOk v] }
        ∧ (∀ k, k < w.bytes → v.extractLsb' (8 * k) 8 = s.readByte (o + k))
        ∧ (∀ k, w.bytes ≤ k → v.extractLsb' (8 * k) 8 = 0#8))

/-- A host write to IRQ_EN or IRQ_STAT, busy or idle: IRQ_EN takes bits 2:0; IRQ_STAT loses each bit whose written bit is
1 and keeps the others (10_state.md section 2). -/
def Obligations.InterruptRegisterWrites : Prop :=
  ∀ (s : State) (v : Word),
    hostAccess (.write .w32 0x008 v) s = .next
        { s with
          irqEn := { done := v.getLsbD 0, err := v.getLsbD 1, werr := v.getLsbD 2 },
          responses := s.responses ++ [.writeOk] }
    ∧ hostAccess (.write .w32 0x00C v) s = .next
        { s with
          irqStat :=
            { done := s.irqStat.done && !v.getLsbD 0, err := s.irqStat.err && !v.getLsbD 1,
              werr := s.irqStat.werr && !v.getLsbD 2 },
          responses := s.responses ++ [.writeOk] }

/-- The interrupt line is high exactly when some pending bit is enabled (60_exceptions.md section 4), as software sees
the two registers. -/
def Obligations.InterruptLine : Prop :=
  ∀ s : State, s.irq = true ↔ s.readReg .irqStat &&& s.readReg .irqEn ≠ 0#32

/-- What the host reads (10_state.md section 2, 20_memory.md section 4). A 32-bit read of any mapped register, busy or
idle, answers that register's word and changes no engine state (the recorded answer is log 7); an idle read of TAGi
answers the tag's word i; ID, STATUS, IRQ_EN, IRQ_STAT and MBUF_SIZE hold their fields at their places, the reserved
bits 0. -/
def Obligations.IdStatusAndSizeFields : Prop :=
  ∀ s : State,
    (∀ r : Reg,
      hostAccess (.read .w32 r.offset) s
        = .next { s with responses := s.responses ++ [.readOk (s.readReg r)] })
    ∧ (s.busy = false → ∀ i : Fin 4,
      hostAccess (.read .w32 (0x0A0 + 4 * i.val)) s
        = .next { s with responses := s.responses ++ [.readOk s.tag[i]] })
    ∧ (s.readReg .irqEn).getLsbD 0 = s.irqEn.done ∧ (s.readReg .irqEn).getLsbD 1 = s.irqEn.err
    ∧ (s.readReg .irqEn).getLsbD 2 = s.irqEn.werr ∧ (s.readReg .irqEn).extractLsb' 3 29 = 0#29
    ∧ (s.readReg .irqStat).getLsbD 0 = s.irqStat.done ∧ (s.readReg .irqStat).getLsbD 1 = s.irqStat.err
    ∧ (s.readReg .irqStat).getLsbD 2 = s.irqStat.werr ∧ (s.readReg .irqStat).extractLsb' 3 29 = 0#29
    ∧ (s.readReg .id).extractLsb' 16 16 = 0x1305#16 ∧ (s.readReg .id).extractLsb' 8 8 = 0x01#8
    ∧ (s.readReg .id).extractLsb' 0 8 = 0x00#8
    ∧ s.readReg .mbufSize = BitVec.ofNat 32 s.mbufBytes
    ∧ (s.readReg .status).getLsbD 0 = s.busy ∧ (s.readReg .status).getLsbD 1 = s.err
    ∧ (s.readReg .status).getLsbD 2 = s.tagMatch ∧ (s.readReg .status).getLsbD 3 = s.tagv
    ∧ (s.readReg .status).extractLsb' 4 2
        = (match s.pstate with | .empty => 0#2 | .active => 1#2 | .finalized => 2#2)
    ∧ (s.readReg .status).extractLsb' 6 2 = 0#2
    ∧ (s.readReg .status).extractLsb' 8 4
        = (match s.errcode with
          | .noError => 0#4 | .illegalCmd => 1#4 | .invalidArgument => 2#4 | .invalidKeyLength => 3#4
          | .sequence => 4#4 | .authenticationFailure => 5#4 | .underlyingPrimitiveFailure => 6#4
          | .allocationFailure => 7#4)
    ∧ (s.readReg .status).extractLsb' 12 20 = 0#20

/-! ## Reset (70_reset_and_hazards.md) -/

/-- R45: after power-on, and after a reset at any time, busy or idle, every register and the unit holds its reset value.
A pending command is abandoned (70_reset_and_hazards.md section 1): the reset event leaves the engine idle, DONE clear, and makes no port request.
Nothing is said of MBUF's bytes. (What the model keeps across reset outside the engine is log 11.) -/
def Obligations.ResetAtAnyTime : Prop :=
  State.reset.AtReset
    ∧ ∀ (s : State) (rest : List Event), s.events = .reset :: rest →
      ∃ t, step s = .next t ∧ t.AtReset ∧ t.irq = false
        ∧ t.readReg .id = s.readReg .id ∧ t.readReg .mbufSize = s.readReg .mbufSize ∧ t.port = s.port

/-- The state after power-on meets the invariant. -/
def Obligations.ResetMeetsTheInvariant : Prop := State.reset.Inv

/-! ## Rules over every step -/

/-- From every state that meets the invariant, whatever event comes next (host access, engine's turn, reset), the next
state meets it: MBUF's list stays canonical and inside MBUF, BUSY hides the old result, ERR and ERRCODE agree, code 7
never occurs, TAG is zero unless valid, an invalid input word is zero, the unit is wiped outside a stream, and the limb
bounds and the buffer's zero tail hold between commands. -/
def Obligations.StepKeepsTheInvariant : Prop :=
  ∀ s t : State, s.Inv → step s = .next t → t.Inv

/-- The machine stops nowhere but at a host access outside the window (log 8): no command, in any state, ends in a
fault or a refusal. -/
def Obligations.OnlyOutsideAccessesStop : Prop :=
  (∀ (i : Instr) (s : State), ∃ t, exec i s = .next t)
    ∧ (∀ s : State,
      (∃ t, step s = .next t)
      ∨ ∃ a rest, s.events = .host a :: rest ∧ s.windowBytes ≤ a.off ∧ step s = .fault (.outsideWindow a.off))

/-- An accepted command completes once the outside world's events are used up, whatever they are (the model's fairness,
log 5): after one step more than there are events the engine is idle. -/
def Obligations.BusyEngineCompletes : Prop :=
  ∀ s t : State, Host.Core.run Sys2Proof.core (s.events.length + 1) s = .next t → t.busy = false ∧ t.events = []

/-- While no command is pending, the engine's turn changes nothing; and with no event left the machine rests (log 5). -/
def Obligations.IdleEngineDoesNothing : Prop :=
  ∀ s : State, s.busy = false →
    engineTurn s = .next s ∧ (s.events = [] → step s = .next s)
      ∧ (∀ rest, s.events = .engine :: rest → step s = .next { s with events := rest })

/-- No host access tells the host anything of the secrets, and none makes the visible state depend on them: two states
that differ only in the words of KEY, NONCE, PKEY and REFTAG and in the Poly1305 unit answer every access alike (the
answers are part of the visible state) and still differ only there (60_exceptions.md section 5). -/
def Obligations.HostAccessesRevealNoSecret : Prop :=
  ∀ (s s' t : State) (a : HostAccess), SamePublic s s' → hostAccess a s = .next t →
    ∃ t', hostAccess a s' = .next t' ∧ SamePublic t t' ∧ t.responses = t'.responses ∧ t.irq = t'.irq

/-- The window in the host's address space (20_memory.md section 1), for every ENGINE_BASE (log 9): offset a of the
window is reached at ENGINE_BASE + a and nowhere else. -/
def Obligations.WindowIsAtEngineBase : Prop :=
  ∀ (s : State) (addr a : Nat),
    s.windowOffset? addr = some a ↔ (addr = Config.engineBase + a ∧ a < 0x1000 + s.mbufBytes)
end

