-- ==== Sys2Proof/Laws/Bytes.lean ====
section
/-! SUPPORT. Laws/Bytes.lean: lengths, round trips and values of the byte-string primitives, and what ct_eq decides. -/

namespace Sys2Proof.Machine

@[simp] theorem length_leBytes (v n : Nat) : (leBytes v n).length = n := by
  induction n generalizing v with
  | zero => rfl
  | succ n ih => simp [leBytes, ih]

@[simp] theorem length_zeros (n : Nat) : (zeros n).length = n := by simp [zeros]

@[simp] theorem length_slice (x : Bytes) (a b : Nat) : (slice x a b).length = min (b - a) (x.length - a) := by
  simp [slice]

@[simp] theorem length_xorBytes (x y : Bytes) : (xorBytes x y).length = min x.length y.length := by
  simp [xorBytes]

theorem leInt_lt (x : Bytes) : leInt x < 256 ^ x.length := by
  induction x with
  | nil => simp [leInt]
  | cons b x ih =>
    have := b.isLt
    simp only [leInt, List.length_cons, Nat.pow_succ]
    omega

theorem leInt_append (x y : Bytes) : leInt (x ++ y) = leInt x + 256 ^ x.length * leInt y := by
  induction x with
  | nil => simp [leInt]
  | cons b x ih => simp [leInt, ih, Nat.pow_succ]; ring

/-- `le_int(le_bytes(v, n)) = v mod 256^n` (R10). -/
theorem leInt_leBytes (v n : Nat) : leInt (leBytes v n) = v % 256 ^ n := by
  induction n generalizing v with
  | zero => simp [leBytes, leInt, Nat.mod_one]
  | succ n ih =>
    have h := Nat.mod_mul (x := v) (a := 256) (b := 256 ^ n)
    rw [leBytes, leInt, ih, Nat.pow_succ, Nat.mul_comm (256 ^ n), h]
    simp

/-- `le_bytes(le_int(x), len(x)) = x` (R10). -/
theorem leBytes_leInt (x : Bytes) : leBytes (leInt x) x.length = x := by
  induction x with
  | nil => rfl
  | cons b x ih =>
    have hb := b.isLt
    have h1 : BitVec.ofNat 8 (b.toNat + 256 * leInt x) = b := by
      apply BitVec.eq_of_toNat_eq
      simp only [BitVec.toNat_ofNat]
      omega
    have h2 : (b.toNat + 256 * leInt x) / 256 = leInt x := by omega
    simp [leInt, leBytes, h1, h2, ih]

theorem leInt_drop (x : Bytes) (a : Nat) : leInt (x.drop a) = leInt x / 256 ^ a := by
  induction a generalizing x with
  | zero => simp
  | succ a ih =>
    cases x with
    | nil => simp [leInt]
    | cons b x =>
      have hb := b.isLt
      rw [List.drop_succ_cons, ih, leInt, Nat.pow_succ, Nat.mul_comm (256 ^ a), ← Nat.div_div_eq_div_mul]
      congr 1
      omega

theorem leInt_take (x : Bytes) (n : Nat) : leInt (x.take n) = leInt x % 256 ^ n := by
  by_cases h : n ≤ x.length
  · have e := leInt_append (x.take n) (x.drop n)
    rw [List.take_append_drop, List.length_take, Nat.min_eq_left h] at e
    have hlt := leInt_lt (x.take n)
    rw [List.length_take, Nat.min_eq_left h] at hlt
    rw [e, Nat.add_mul_mod_self_left, Nat.mod_eq_of_lt hlt]
  · rw [List.take_of_length_le (by omega), Nat.mod_eq_of_lt]
    exact lt_of_lt_of_le (leInt_lt x) (Nat.pow_le_pow_right (by norm_num) (by omega))

theorem leInt_slice (x : Bytes) (a b : Nat) : leInt (slice x a b) = leInt x / 256 ^ a % 256 ^ (b - a) := by
  rw [slice, leInt_take, leInt_drop]

/-- Two byte strings of one length with one value are equal. -/
theorem eq_of_leInt_eq {x y : Bytes} (hl : x.length = y.length) (h : leInt x = leInt y) : x = y := by
  rw [← leBytes_leInt x, ← leBytes_leInt y, h, hl]

@[simp] theorem leBytes_mod (v n : Nat) : leBytes (v % 256 ^ n) n = leBytes v n := by
  refine eq_of_leInt_eq (by simp) ?_
  simp [leInt_leBytes]

/-- Byte `k` of a byte string as words: the bytes come back. -/
theorem wordsByte_wordsOfBytes {n : Nat} {x : Bytes} {k : Nat} (hk : k < 4 * n) (hx : x.length = 4 * n) :
    wordsByte (wordsOfBytes n x) k = x.getD k 0#8 := by
  have hq : k / 4 < n := by omega
  have e : x = x.take (4 * (k / 4)) ++ (slice x (4 * (k / 4)) (4 * (k / 4) + 4) ++ x.drop (4 * (k / 4) + 4)) := by
    rw [slice, ← List.drop_drop, show 4 * (k / 4) + 4 - 4 * (k / 4) = 4 by omega, List.take_append_drop,
      List.take_append_drop]
  have hl : (slice x (4 * (k / 4)) (4 * (k / 4) + 4)).length = 4 := by simp; omega
  generalize hs : slice x (4 * (k / 4)) (4 * (k / 4) + 4) = w at e hl
  have hget : x.getD k 0#8 = w.getD (k % 4) 0#8 := by
    have h1 : (x.take (4 * (k / 4))).length = 4 * (k / 4) := by simp; omega
    rw [e, List.getD_append_right _ _ _ _ (by omega), h1, show k - 4 * (k / 4) = k % 4 by omega,
      List.getD_append _ _ _ _ (by omega)]
  rw [hget, wordsByte, wordsOfBytes]
  simp only [Vector.getElem?_ofFn, hq, dite_true, Option.getD_some, hs]
  match w, hl with
  | [b0, b1, b2, b3], _ =>
    have h0 := b0.isLt
    have h1 := b1.isLt
    have h2 := b2.isLt
    have h3 := b3.isLt
    have hk4 : k % 4 = 0 ∨ k % 4 = 1 ∨ k % 4 = 2 ∨ k % 4 = 3 := by omega
    apply BitVec.eq_of_toNat_eq
    simp only [BitVec.extractLsb'_toNat, BitVec.toNat_ofNat, leInt, Nat.shiftRight_eq_div_pow]
    rcases hk4 with h | h | h | h <;> simp only [h] <;> norm_num <;> omega

/-- A byte string laid into words reads back (R33, R62). -/
theorem toList_bytesOfWords_wordsOfBytes {n : Nat} (x : Bytes) (hx : x.length = 4 * n) :
    (bytesOfWords (4 * n) (wordsOfBytes n x)).toList = x := by
  apply List.ext_getElem (by simp [hx])
  intro i h1 h2
  have hi : i < 4 * n := by omega
  simp [bytesOfWords, wordsByte_wordsOfBytes hi hx, h2]

theorem foldl_or_eq_zero (x : Bytes) (a : Byte) : x.foldl (· ||| ·) a = 0#8 ↔ a = 0#8 ∧ ∀ b ∈ x, b = 0#8 := by
  induction x generalizing a with
  | nil => simp
  | cons b x ih =>
    simp only [List.foldl_cons, ih, List.mem_cons, forall_eq_or_imp, BitVec.or_eq_zero_iff]
    tauto

/-- `ct_eq` "returns true exactly when" the two strings are equal (R13). -/
theorem ctEq_iff {x y : Bytes} (hl : x.length = y.length) : ctEq x y = true ↔ x = y := by
  simp only [ctEq, beq_iff_eq, foldl_or_eq_zero, true_and]
  constructor
  · intro h
    apply List.ext_getElem hl
    intro i h1 h2
    have := h (x[i] ^^^ y[i]) (by
      rw [List.mem_iff_getElem]
      exact ⟨i, by simp; omega, by simp [xorBytes]⟩)
    simpa using this
  · rintro rfl b hb
    obtain ⟨i, h1, h2⟩ := List.mem_iff_getElem.1 hb
    simp [xorBytes] at h2
    simp [← h2]

end Sys2Proof.Machine
end

