-- ==== Sys2Proof/Laws/Datapath.lean ====
section
/-! SUPPORT. Laws/Datapath.lean: what each stage of BLOCK and FULL_REDUCE does on numbers (spec/40_poly1305.md R112,
R114): no sum overflows, and each value is the one the exact arithmetic gives. -/

namespace Sys2Proof.Machine

theorem le32_toNat (x : Bytes) (a : Nat) : (le32 x a).toNat = leInt x / 256 ^ a % 2 ^ 32 := by
  rw [le32, BitVec.toNat_ofNat, leInt_slice, Nat.add_sub_cancel_left]
  norm_num

theorem and_m26_toNat (x : BitVec 64) : (x &&& m26).toNat = x.toNat % 2 ^ 26 := by
  rw [BitVec.toNat_and, show m26.toNat = 2 ^ 26 - 1 from rfl, Nat.and_two_pow_sub_one_eq_mod]

theorem setWidth64_toNat (x : Limb) : (x.setWidth 64).toNat = x.toNat := by
  have := x.isLt
  simp only [BitVec.toNat_setWidth]; omega

/-- The values of five 64-bit transients. -/
structure WideSum (a : Wide) (v0 v1 v2 v3 v4 : Nat) : Prop where
  d0 : a.d0.toNat = v0
  d1 : a.d1.toNat = v1
  d2 : a.d2.toNat = v2
  d3 : a.d3.toNat = v3
  d4 : a.d4.toNat = v4

/-- The limbs of the block, hibit included, added to the accumulator without overflow (R112). -/
theorem addBlock_toNat (h : Limbs) (m : Bytes) (hb : Bool) (hm : m.length = 16) :
    WideSum (addBlock h m hb) (h.l0.toNat + leInt m % 2 ^ 26) (h.l1.toNat + leInt m / 2 ^ 26 % 2 ^ 26)
      (h.l2.toNat + leInt m / 2 ^ 52 % 2 ^ 26) (h.l3.toNat + leInt m / 2 ^ 78 % 2 ^ 26)
      (h.l4.toNat + (leInt m / 2 ^ 104 + hb.toNat * 2 ^ 24)) := by
  have hN := leInt_lt m
  rw [hm] at hN
  have h0 := h.l0.isLt
  have h1 := h.l1.isLt
  have h2 := h.l2.isLt
  have h3 := h.l3.isLt
  have h4 := h.l4.isLt
  have w (a : Nat) : ((le32 m a).setWidth 64).toNat = leInt m / 256 ^ a % 2 ^ 32 := by
    rw [BitVec.toNat_setWidth, le32_toNat]; omega
  have hor : (((le32 m 12).setWidth 64 >>> 8 ||| (BitVec.ofBool hb).setWidth 64 <<< 24 : BitVec 64)).toNat
      = leInt m / 2 ^ 104 + hb.toNat * 2 ^ 24 := by
    have hs : ((BitVec.ofBool hb).setWidth 64 <<< 24 : BitVec 64).toNat = 2 ^ 24 * hb.toNat := by cases hb <;> rfl
    have hx : ((le32 m 12).setWidth 64 >>> 8 : BitVec 64).toNat = leInt m / 2 ^ 104 := by
      rw [BitVec.toNat_ushiftRight, w, Nat.shiftRight_eq_div_pow]; omega
    rw [BitVec.toNat_or, hs, hx, Nat.or_comm, ← Nat.two_pow_add_eq_or_of_lt (by omega)]
    omega
  constructor
  · simp only [addBlock, BitVec.toNat_add, setWidth64_toNat, and_m26_toNat, w]; omega
  · simp only [addBlock, BitVec.toNat_add, setWidth64_toNat, and_m26_toNat, BitVec.toNat_ushiftRight, w,
      Nat.shiftRight_eq_div_pow]; omega
  · simp only [addBlock, BitVec.toNat_add, setWidth64_toNat, and_m26_toNat, BitVec.toNat_ushiftRight, w,
      Nat.shiftRight_eq_div_pow]; omega
  · simp only [addBlock, BitVec.toNat_add, setWidth64_toNat, and_m26_toNat, BitVec.toNat_ushiftRight, w,
      Nat.shiftRight_eq_div_pow]; omega
  · simp only [addBlock, BitVec.toNat_add, setWidth64_toNat, hor]
    have := hb.toNat_le
    omega

theorem mul_bound {a b A B : Nat} (ha : a < A) (hb : b < B) : a * b ≤ A * B := Nat.mul_le_mul ha.le hb.le

/-- With the accumulator's limbs in range every 64-bit product sum is exact (R112, R113). -/
theorem mulR_toNat (a : Wide) (r : Limbs) (b0 : a.d0.toNat < 2 ^ 29) (b1 : a.d1.toNat < 2 ^ 29)
    (b2 : a.d2.toNat < 2 ^ 29) (b3 : a.d3.toNat < 2 ^ 29) (b4 : a.d4.toNat < 2 ^ 29) :
    WideSum (mulR a r)
      (a.d0.toNat * r.l0.toNat + a.d1.toNat * (5 * r.l4.toNat) + a.d2.toNat * (5 * r.l3.toNat)
        + a.d3.toNat * (5 * r.l2.toNat) + a.d4.toNat * (5 * r.l1.toNat))
      (a.d0.toNat * r.l1.toNat + a.d1.toNat * r.l0.toNat + a.d2.toNat * (5 * r.l4.toNat)
        + a.d3.toNat * (5 * r.l3.toNat) + a.d4.toNat * (5 * r.l2.toNat))
      (a.d0.toNat * r.l2.toNat + a.d1.toNat * r.l1.toNat + a.d2.toNat * r.l0.toNat
        + a.d3.toNat * (5 * r.l4.toNat) + a.d4.toNat * (5 * r.l3.toNat))
      (a.d0.toNat * r.l3.toNat + a.d1.toNat * r.l2.toNat + a.d2.toNat * r.l1.toNat
        + a.d3.toNat * r.l0.toNat + a.d4.toNat * (5 * r.l4.toNat))
      (a.d0.toNat * r.l4.toNat + a.d1.toNat * r.l3.toNat + a.d2.toNat * r.l2.toNat
        + a.d3.toNat * r.l1.toNat + a.d4.toNat * r.l0.toNat) := by
  have five (x : Limb) : (5#64 * x.setWidth 64).toNat = 5 * x.toNat := by
    have := x.isLt
    simp only [BitVec.toNat_mul, setWidth64_toNat, BitVec.toNat_ofNat]; omega
  have prod (x y : BitVec 64) (hx : x.toNat < 2 ^ 29) (hy : y.toNat < 5 * 2 ^ 28) :
      (x * y).toNat = x.toNat * y.toNat ∧ x.toNat * y.toNat ≤ 2 ^ 29 * (5 * 2 ^ 28) := by
    have h := mul_bound hx hy
    exact ⟨by rw [BitVec.toNat_mul, Nat.mod_eq_of_lt (by omega)], h⟩
  have small (x : Limb) : (x.setWidth 64).toNat < 5 * 2 ^ 28 := by
    have := x.isLt
    rw [setWidth64_toNat]; omega
  have big (x : Limb) : (5#64 * x.setWidth 64).toNat < 5 * 2 ^ 28 := by
    have := x.isLt
    rw [five]; omega
  have p0 (x : Limb) := prod a.d0 _ b0 (small x)
  have p1 (x : Limb) := prod a.d1 _ b1 (small x)
  have p2 (x : Limb) := prod a.d2 _ b2 (small x)
  have p3 (x : Limb) := prod a.d3 _ b3 (small x)
  have p4 (x : Limb) := prod a.d4 _ b4 (small x)
  have q1 (x : Limb) := prod a.d1 _ b1 (big x)
  have q2 (x : Limb) := prod a.d2 _ b2 (big x)
  have q3 (x : Limb) := prod a.d3 _ b3 (big x)
  have q4 (x : Limb) := prod a.d4 _ b4 (big x)
  simp only [setWidth64_toNat, five] at p0 p1 p2 p3 p4 q1 q2 q3 q4
  constructor
  · simp only [mulR, BitVec.toNat_add, (p0 r.l0).1, (q1 r.l4).1, (q2 r.l3).1, (q3 r.l2).1, (q4 r.l1).1]
    have := (p0 r.l0).2; have := (q1 r.l4).2; have := (q2 r.l3).2; have := (q3 r.l2).2; have := (q4 r.l1).2
    omega
  · simp only [mulR, BitVec.toNat_add, (p0 r.l1).1, (p1 r.l0).1, (q2 r.l4).1, (q3 r.l3).1, (q4 r.l2).1]
    have := (p0 r.l1).2; have := (p1 r.l0).2; have := (q2 r.l4).2; have := (q3 r.l3).2; have := (q4 r.l2).2
    omega
  · simp only [mulR, BitVec.toNat_add, (p0 r.l2).1, (p1 r.l1).1, (p2 r.l0).1, (q3 r.l4).1, (q4 r.l3).1]
    have := (p0 r.l2).2; have := (p1 r.l1).2; have := (p2 r.l0).2; have := (q3 r.l4).2; have := (q4 r.l3).2
    omega
  · simp only [mulR, BitVec.toNat_add, (p0 r.l3).1, (p1 r.l2).1, (p2 r.l1).1, (p3 r.l0).1, (q4 r.l4).1]
    have := (p0 r.l3).2; have := (p1 r.l2).2; have := (p2 r.l1).2; have := (p3 r.l0).2; have := (q4 r.l4).2
    omega
  · simp only [mulR, BitVec.toNat_add, (p0 r.l4).1, (p1 r.l3).1, (p2 r.l2).1, (p3 r.l1).1, (p4 r.l0).1]
    have := (p0 r.l4).2; have := (p1 r.l3).2; have := (p2 r.l2).2; have := (p3 r.l1).2; have := (p4 r.l0).2
    omega

/-- The partial carry: limb bounds, and the value up to a multiple of p (R112). -/
theorem carryLimbs_value (d : Wide) (b0 : d.d0.toNat < 2 ^ 63) (b1 : d.d1.toNat < 2 ^ 63) (b2 : d.d2.toNat < 2 ^ 63)
    (b3 : d.d3.toNat < 2 ^ 63) (b4 : d.d4.toNat < 2 ^ 63) :
    (carryLimbs d).Tight ∧ ∃ c, (carryLimbs d).value + c * primeP
      = d.d0.toNat + d.d1.toNat * 2 ^ 26 + d.d2.toNat * 2 ^ 52 + d.d3.toNat * 2 ^ 78 + d.d4.toNat * 2 ^ 104 := by
  have e1 : (d.d1 + d.d0 >>> 26).toNat = d.d1.toNat + d.d0.toNat / 2 ^ 26 := by
    simp only [BitVec.toNat_add, BitVec.toNat_ushiftRight, Nat.shiftRight_eq_div_pow]; omega
  generalize hx1 : d.d1 + d.d0 >>> 26 = x1 at e1
  have e2 : (d.d2 + x1 >>> 26).toNat = d.d2.toNat + x1.toNat / 2 ^ 26 := by
    simp only [BitVec.toNat_add, BitVec.toNat_ushiftRight, Nat.shiftRight_eq_div_pow]; omega
  generalize hx2 : d.d2 + x1 >>> 26 = x2 at e2
  have e3 : (d.d3 + x2 >>> 26).toNat = d.d3.toNat + x2.toNat / 2 ^ 26 := by
    simp only [BitVec.toNat_add, BitVec.toNat_ushiftRight, Nat.shiftRight_eq_div_pow]; omega
  generalize hx3 : d.d3 + x2 >>> 26 = x3 at e3
  have e4 : (d.d4 + x3 >>> 26).toNat = d.d4.toNat + x3.toNat / 2 ^ 26 := by
    simp only [BitVec.toNat_add, BitVec.toNat_ushiftRight, Nat.shiftRight_eq_div_pow]; omega
  generalize hx4 : d.d4 + x3 >>> 26 = x4 at e4
  have e0 : ((d.d0 &&& m26) + 5#64 * (x4 >>> 26)).toNat = d.d0.toNat % 2 ^ 26 + 5 * (x4.toNat / 2 ^ 26) := by
    simp only [BitVec.toNat_add, BitVec.toNat_mul, and_m26_toNat, BitVec.toNat_ushiftRight,
      Nat.shiftRight_eq_div_pow, BitVec.toNat_ofNat]; omega
  generalize hx0 : (d.d0 &&& m26) + 5#64 * (x4 >>> 26) = x0 at e0
  have e5 : ((x1 &&& m26) + x0 >>> 26).toNat = x1.toNat % 2 ^ 26 + x0.toNat / 2 ^ 26 := by
    simp only [BitVec.toNat_add, and_m26_toNat, BitVec.toNat_ushiftRight, Nat.shiftRight_eq_div_pow]; omega
  generalize hx5 : (x1 &&& m26) + x0 >>> 26 = x5 at e5
  have v0 : (carryLimbs d).l0.toNat = x0.toNat % 2 ^ 26 := by
    simp only [carryLimbs, hx1, hx2, hx3, hx4, hx0, BitVec.toNat_setWidth, and_m26_toNat]; omega
  have v1 : (carryLimbs d).l1.toNat = x5.toNat := by
    simp only [carryLimbs, hx1, hx2, hx3, hx4, hx0, hx5, BitVec.toNat_setWidth]; omega
  have v2 : (carryLimbs d).l2.toNat = x2.toNat % 2 ^ 26 := by
    simp only [carryLimbs, hx1, hx2, BitVec.toNat_setWidth, and_m26_toNat]; omega
  have v3 : (carryLimbs d).l3.toNat = x3.toNat % 2 ^ 26 := by
    simp only [carryLimbs, hx1, hx2, hx3, BitVec.toNat_setWidth, and_m26_toNat]; omega
  have v4 : (carryLimbs d).l4.toNat = x4.toNat % 2 ^ 26 := by
    simp only [carryLimbs, hx1, hx2, hx3, hx4, BitVec.toNat_setWidth, and_m26_toNat]; omega
  refine ⟨⟨by omega, by omega, by omega, by omega, by omega⟩, x4.toNat / 2 ^ 26, ?_⟩
  rw [Limbs.value, v0, v1, v2, v3, v4, primeP]
  omega

/-! ## FULL_REDUCE -/

theorem and_m26_word_toNat (x : Word) : (x &&& 0x3ffffff#32).toNat = x.toNat % 2 ^ 26 := by
  rw [BitVec.toNat_and, show (0x3ffffff#32).toNat = 2 ^ 26 - 1 from rfl, Nat.and_two_pow_sub_one_eq_mod]
theorem setWidth32_toNat (x : Limb) : (x.setWidth 32).toNat = x.toNat := by
  have := x.isLt
  simp only [BitVec.toNat_setWidth]; omega

/-- The OR of disjoint bit ranges is a sum. -/
theorem or_shiftLeft_toNat (x y : Word) (k : Nat) (hk : k < 32) (hx : x.toNat < 2 ^ k) :
    (x ||| y <<< k).toNat = x.toNat + (y.toNat * 2 ^ k) % 2 ^ 32 := by
  rw [BitVec.toNat_or, BitVec.toNat_shiftLeft, Nat.shiftLeft_eq]
  have e : y.toNat * 2 ^ k % 2 ^ 32 = 2 ^ k * (y.toNat % 2 ^ (32 - k)) := by
    rw [Nat.mul_comm, show (2:Nat) ^ 32 = 2 ^ k * 2 ^ (32 - k) by rw [← pow_add]; congr 1; omega, Nat.mul_mod_mul_left]
  rw [e, Nat.or_comm, ← Nat.two_pow_add_eq_or_of_lt hx]; omega

/-- The packed words' value, for limbs below 2^26 (or limb 1 equal to 2^26 beside a zero limb 2). -/
theorem packWords_value (n : Narrow) (h0 : n.n0.toNat < 2 ^ 26) (h2 : n.n2.toNat < 2 ^ 26)
    (h3 : n.n3.toNat < 2 ^ 26)
    (h1 : n.n1.toNat < 2 ^ 26 ∨ (n.n1.toNat = 2 ^ 26 ∧ n.n2.toNat = 0)) :
    maskValue (packWords n)
      = (n.n0.toNat + n.n1.toNat * 2 ^ 26 + n.n2.toNat * 2 ^ 52 + n.n3.toNat * 2 ^ 78 + n.n4.toNat * 2 ^ 104) % 2 ^ 128 := by
  rcases h1 with h1 | ⟨h1, hz⟩
  · have w0 := or_shiftLeft_toNat n.n0 n.n1 26 (by omega) h0
    have w1 := or_shiftLeft_toNat (n.n1 >>> 6) n.n2 20 (by omega) (by rw [BitVec.toNat_ushiftRight, Nat.shiftRight_eq_div_pow]; omega)
    have w2 := or_shiftLeft_toNat (n.n2 >>> 12) n.n3 14 (by omega) (by rw [BitVec.toNat_ushiftRight, Nat.shiftRight_eq_div_pow]; omega)
    have w3 := or_shiftLeft_toNat (n.n3 >>> 18) n.n4 8 (by omega) (by rw [BitVec.toNat_ushiftRight, Nat.shiftRight_eq_div_pow]; omega)
    simp only [BitVec.toNat_ushiftRight, Nat.shiftRight_eq_div_pow] at w0 w1 w2 w3
    simp only [maskValue, packWords, Vector.getElem_mk, List.getElem_toArray, List.getElem_cons_zero, List.getElem_cons_succ]
    rw [w0, w1, w2, w3]
    omega
  · have z : n.n2 = 0#32 := BitVec.eq_of_toNat_eq hz
    have o : n.n1 = 0x4000000#32 := BitVec.eq_of_toNat_eq h1
    have w0 := or_shiftLeft_toNat n.n0 n.n1 26 (by omega) h0
    have w2 := or_shiftLeft_toNat (n.n2 >>> 12) n.n3 14 (by omega) (by rw [BitVec.toNat_ushiftRight, Nat.shiftRight_eq_div_pow]; omega)
    have w3 := or_shiftLeft_toNat (n.n3 >>> 18) n.n4 8 (by omega) (by rw [BitVec.toNat_ushiftRight, Nat.shiftRight_eq_div_pow]; omega)
    have w1 : (n.n1 >>> 6 ||| n.n2 <<< 20).toNat = 2 ^ 20 := by rw [z, o]; rfl
    simp only [BitVec.toNat_ushiftRight, Nat.shiftRight_eq_div_pow] at w0 w2 w3
    simp only [maskValue, packWords, Vector.getElem_mk, List.getElem_toArray, List.getElem_cons_zero, List.getElem_cons_succ]
    rw [w0, w1, w2, w3]
    omega

end Sys2Proof.Machine
end

