-- ==== Sys2Proof/Laws/State.lean ====
section
/-! SUPPORT. Laws/State.lean: one lemma per field per shared update of State, each true by rfl, so that no proof
unfolds a record update. -/

namespace Sys2Proof.Machine.State

/-! ## finish -/

@[simp] theorem finish_busy (s : State) : (s.finish).busy = false := rfl
@[simp] theorem finish_err (s : State) : (s.finish).err = s.err := rfl
@[simp] theorem finish_tagMatch (s : State) : (s.finish).tagMatch = s.tagMatch := rfl
@[simp] theorem finish_tagv (s : State) : (s.finish).tagv = s.tagv := rfl
@[simp] theorem finish_pstate (s : State) : (s.finish).pstate = s.pstate := rfl
@[simp] theorem finish_errcode (s : State) : (s.finish).errcode = s.errcode := rfl
@[simp] theorem finish_irqEn (s : State) : (s.finish).irqEn = s.irqEn := rfl
@[simp] theorem finish_irqStat (s : State) : (s.finish).irqStat = { s.irqStat with done := true } := rfl
@[simp] theorem finish_pend (s : State) : (s.finish).pend = s.pend := rfl
@[simp] theorem finish_srcOff (s : State) : (s.finish).srcOff = s.srcOff := rfl
@[simp] theorem finish_srcLen (s : State) : (s.finish).srcLen = s.srcLen := rfl
@[simp] theorem finish_aadOff (s : State) : (s.finish).aadOff = s.aadOff := rfl
@[simp] theorem finish_aadLen (s : State) : (s.finish).aadLen = s.aadLen := rfl
@[simp] theorem finish_dstOff (s : State) : (s.finish).dstOff = s.dstOff := rfl
@[simp] theorem finish_key (s : State) : (s.finish).key = s.key := rfl
@[simp] theorem finish_nonce (s : State) : (s.finish).nonce = s.nonce := rfl
@[simp] theorem finish_pkey (s : State) : (s.finish).pkey = s.pkey := rfl
@[simp] theorem finish_reftag (s : State) : (s.finish).reftag = s.reftag := rfl
@[simp] theorem finish_tag (s : State) : (s.finish).tag = s.tag := rfl
@[simp] theorem finish_unit (s : State) : (s.finish).unit = s.unit := rfl
@[simp] theorem finish_mbuf (s : State) : (s.finish).mbuf = s.mbuf := rfl
@[simp] theorem finish_mbufBytes (s : State) : (s.finish).mbufBytes = s.mbufBytes := rfl
@[simp] theorem finish_mbufEpoch (s : State) : (s.finish).mbufEpoch = s.mbufEpoch := rfl
@[simp] theorem finish_port (s : State) : (s.finish).port = s.port := rfl
@[simp] theorem finish_events (s : State) : (s.finish).events = s.events := rfl
@[simp] theorem finish_responses (s : State) : (s.finish).responses = s.responses := rfl

/-! ## consumePkey -/

@[simp] theorem consumePkey_busy (s : State) : (s.consumePkey).busy = s.busy := rfl
@[simp] theorem consumePkey_err (s : State) : (s.consumePkey).err = s.err := rfl
@[simp] theorem consumePkey_tagMatch (s : State) : (s.consumePkey).tagMatch = s.tagMatch := rfl
@[simp] theorem consumePkey_tagv (s : State) : (s.consumePkey).tagv = s.tagv := rfl
@[simp] theorem consumePkey_pstate (s : State) : (s.consumePkey).pstate = s.pstate := rfl
@[simp] theorem consumePkey_errcode (s : State) : (s.consumePkey).errcode = s.errcode := rfl
@[simp] theorem consumePkey_irqEn (s : State) : (s.consumePkey).irqEn = s.irqEn := rfl
@[simp] theorem consumePkey_irqStat (s : State) : (s.consumePkey).irqStat = s.irqStat := rfl
@[simp] theorem consumePkey_pend (s : State) : (s.consumePkey).pend = s.pend := rfl
@[simp] theorem consumePkey_srcOff (s : State) : (s.consumePkey).srcOff = s.srcOff := rfl
@[simp] theorem consumePkey_srcLen (s : State) : (s.consumePkey).srcLen = s.srcLen := rfl
@[simp] theorem consumePkey_aadOff (s : State) : (s.consumePkey).aadOff = s.aadOff := rfl
@[simp] theorem consumePkey_aadLen (s : State) : (s.consumePkey).aadLen = s.aadLen := rfl
@[simp] theorem consumePkey_dstOff (s : State) : (s.consumePkey).dstOff = s.dstOff := rfl
@[simp] theorem consumePkey_key (s : State) : (s.consumePkey).key = s.key := rfl
@[simp] theorem consumePkey_nonce (s : State) : (s.consumePkey).nonce = s.nonce := rfl
@[simp] theorem consumePkey_pkey (s : State) : (s.consumePkey).pkey = .wiped := rfl
@[simp] theorem consumePkey_reftag (s : State) : (s.consumePkey).reftag = s.reftag := rfl
@[simp] theorem consumePkey_tag (s : State) : (s.consumePkey).tag = s.tag := rfl
@[simp] theorem consumePkey_unit (s : State) : (s.consumePkey).unit = s.unit := rfl
@[simp] theorem consumePkey_mbuf (s : State) : (s.consumePkey).mbuf = s.mbuf := rfl
@[simp] theorem consumePkey_mbufBytes (s : State) : (s.consumePkey).mbufBytes = s.mbufBytes := rfl
@[simp] theorem consumePkey_mbufEpoch (s : State) : (s.consumePkey).mbufEpoch = s.mbufEpoch := rfl
@[simp] theorem consumePkey_port (s : State) : (s.consumePkey).port = s.port := rfl
@[simp] theorem consumePkey_events (s : State) : (s.consumePkey).events = s.events := rfl
@[simp] theorem consumePkey_responses (s : State) : (s.consumePkey).responses = s.responses := rfl

/-! ## consumeReftag -/

@[simp] theorem consumeReftag_busy (s : State) : (s.consumeReftag).busy = s.busy := rfl
@[simp] theorem consumeReftag_err (s : State) : (s.consumeReftag).err = s.err := rfl
@[simp] theorem consumeReftag_tagMatch (s : State) : (s.consumeReftag).tagMatch = s.tagMatch := rfl
@[simp] theorem consumeReftag_tagv (s : State) : (s.consumeReftag).tagv = s.tagv := rfl
@[simp] theorem consumeReftag_pstate (s : State) : (s.consumeReftag).pstate = s.pstate := rfl
@[simp] theorem consumeReftag_errcode (s : State) : (s.consumeReftag).errcode = s.errcode := rfl
@[simp] theorem consumeReftag_irqEn (s : State) : (s.consumeReftag).irqEn = s.irqEn := rfl
@[simp] theorem consumeReftag_irqStat (s : State) : (s.consumeReftag).irqStat = s.irqStat := rfl
@[simp] theorem consumeReftag_pend (s : State) : (s.consumeReftag).pend = s.pend := rfl
@[simp] theorem consumeReftag_srcOff (s : State) : (s.consumeReftag).srcOff = s.srcOff := rfl
@[simp] theorem consumeReftag_srcLen (s : State) : (s.consumeReftag).srcLen = s.srcLen := rfl
@[simp] theorem consumeReftag_aadOff (s : State) : (s.consumeReftag).aadOff = s.aadOff := rfl
@[simp] theorem consumeReftag_aadLen (s : State) : (s.consumeReftag).aadLen = s.aadLen := rfl
@[simp] theorem consumeReftag_dstOff (s : State) : (s.consumeReftag).dstOff = s.dstOff := rfl
@[simp] theorem consumeReftag_key (s : State) : (s.consumeReftag).key = s.key := rfl
@[simp] theorem consumeReftag_nonce (s : State) : (s.consumeReftag).nonce = s.nonce := rfl
@[simp] theorem consumeReftag_pkey (s : State) : (s.consumeReftag).pkey = s.pkey := rfl
@[simp] theorem consumeReftag_reftag (s : State) : (s.consumeReftag).reftag = .wiped := rfl
@[simp] theorem consumeReftag_tag (s : State) : (s.consumeReftag).tag = s.tag := rfl
@[simp] theorem consumeReftag_unit (s : State) : (s.consumeReftag).unit = s.unit := rfl
@[simp] theorem consumeReftag_mbuf (s : State) : (s.consumeReftag).mbuf = s.mbuf := rfl
@[simp] theorem consumeReftag_mbufBytes (s : State) : (s.consumeReftag).mbufBytes = s.mbufBytes := rfl
@[simp] theorem consumeReftag_mbufEpoch (s : State) : (s.consumeReftag).mbufEpoch = s.mbufEpoch := rfl
@[simp] theorem consumeReftag_port (s : State) : (s.consumeReftag).port = s.port := rfl
@[simp] theorem consumeReftag_events (s : State) : (s.consumeReftag).events = s.events := rfl
@[simp] theorem consumeReftag_responses (s : State) : (s.consumeReftag).responses = s.responses := rfl

/-! ## consumeKeyNonce -/

@[simp] theorem consumeKeyNonce_busy (s : State) : (s.consumeKeyNonce).busy = s.busy := rfl
@[simp] theorem consumeKeyNonce_err (s : State) : (s.consumeKeyNonce).err = s.err := rfl
@[simp] theorem consumeKeyNonce_tagMatch (s : State) : (s.consumeKeyNonce).tagMatch = s.tagMatch := rfl
@[simp] theorem consumeKeyNonce_tagv (s : State) : (s.consumeKeyNonce).tagv = s.tagv := rfl
@[simp] theorem consumeKeyNonce_pstate (s : State) : (s.consumeKeyNonce).pstate = s.pstate := rfl
@[simp] theorem consumeKeyNonce_errcode (s : State) : (s.consumeKeyNonce).errcode = s.errcode := rfl
@[simp] theorem consumeKeyNonce_irqEn (s : State) : (s.consumeKeyNonce).irqEn = s.irqEn := rfl
@[simp] theorem consumeKeyNonce_irqStat (s : State) : (s.consumeKeyNonce).irqStat = s.irqStat := rfl
@[simp] theorem consumeKeyNonce_pend (s : State) : (s.consumeKeyNonce).pend = s.pend := rfl
@[simp] theorem consumeKeyNonce_srcOff (s : State) : (s.consumeKeyNonce).srcOff = s.srcOff := rfl
@[simp] theorem consumeKeyNonce_srcLen (s : State) : (s.consumeKeyNonce).srcLen = s.srcLen := rfl
@[simp] theorem consumeKeyNonce_aadOff (s : State) : (s.consumeKeyNonce).aadOff = s.aadOff := rfl
@[simp] theorem consumeKeyNonce_aadLen (s : State) : (s.consumeKeyNonce).aadLen = s.aadLen := rfl
@[simp] theorem consumeKeyNonce_dstOff (s : State) : (s.consumeKeyNonce).dstOff = s.dstOff := rfl
@[simp] theorem consumeKeyNonce_key (s : State) : (s.consumeKeyNonce).key = .wiped := rfl
@[simp] theorem consumeKeyNonce_nonce (s : State) : (s.consumeKeyNonce).nonce = .wiped := rfl
@[simp] theorem consumeKeyNonce_pkey (s : State) : (s.consumeKeyNonce).pkey = s.pkey := rfl
@[simp] theorem consumeKeyNonce_reftag (s : State) : (s.consumeKeyNonce).reftag = s.reftag := rfl
@[simp] theorem consumeKeyNonce_tag (s : State) : (s.consumeKeyNonce).tag = s.tag := rfl
@[simp] theorem consumeKeyNonce_unit (s : State) : (s.consumeKeyNonce).unit = s.unit := rfl
@[simp] theorem consumeKeyNonce_mbuf (s : State) : (s.consumeKeyNonce).mbuf = s.mbuf := rfl
@[simp] theorem consumeKeyNonce_mbufBytes (s : State) : (s.consumeKeyNonce).mbufBytes = s.mbufBytes := rfl
@[simp] theorem consumeKeyNonce_mbufEpoch (s : State) : (s.consumeKeyNonce).mbufEpoch = s.mbufEpoch := rfl
@[simp] theorem consumeKeyNonce_port (s : State) : (s.consumeKeyNonce).port = s.port := rfl
@[simp] theorem consumeKeyNonce_events (s : State) : (s.consumeKeyNonce).events = s.events := rfl
@[simp] theorem consumeKeyNonce_responses (s : State) : (s.consumeKeyNonce).responses = s.responses := rfl

/-! ## consumeKeyNonceReftag -/

@[simp] theorem consumeKeyNonceReftag_busy (s : State) : (s.consumeKeyNonceReftag).busy = s.busy := rfl
@[simp] theorem consumeKeyNonceReftag_err (s : State) : (s.consumeKeyNonceReftag).err = s.err := rfl
@[simp] theorem consumeKeyNonceReftag_tagMatch (s : State) : (s.consumeKeyNonceReftag).tagMatch = s.tagMatch := rfl
@[simp] theorem consumeKeyNonceReftag_tagv (s : State) : (s.consumeKeyNonceReftag).tagv = s.tagv := rfl
@[simp] theorem consumeKeyNonceReftag_pstate (s : State) : (s.consumeKeyNonceReftag).pstate = s.pstate := rfl
@[simp] theorem consumeKeyNonceReftag_errcode (s : State) : (s.consumeKeyNonceReftag).errcode = s.errcode := rfl
@[simp] theorem consumeKeyNonceReftag_irqEn (s : State) : (s.consumeKeyNonceReftag).irqEn = s.irqEn := rfl
@[simp] theorem consumeKeyNonceReftag_irqStat (s : State) : (s.consumeKeyNonceReftag).irqStat = s.irqStat := rfl
@[simp] theorem consumeKeyNonceReftag_pend (s : State) : (s.consumeKeyNonceReftag).pend = s.pend := rfl
@[simp] theorem consumeKeyNonceReftag_srcOff (s : State) : (s.consumeKeyNonceReftag).srcOff = s.srcOff := rfl
@[simp] theorem consumeKeyNonceReftag_srcLen (s : State) : (s.consumeKeyNonceReftag).srcLen = s.srcLen := rfl
@[simp] theorem consumeKeyNonceReftag_aadOff (s : State) : (s.consumeKeyNonceReftag).aadOff = s.aadOff := rfl
@[simp] theorem consumeKeyNonceReftag_aadLen (s : State) : (s.consumeKeyNonceReftag).aadLen = s.aadLen := rfl
@[simp] theorem consumeKeyNonceReftag_dstOff (s : State) : (s.consumeKeyNonceReftag).dstOff = s.dstOff := rfl
@[simp] theorem consumeKeyNonceReftag_key (s : State) : (s.consumeKeyNonceReftag).key = .wiped := rfl
@[simp] theorem consumeKeyNonceReftag_nonce (s : State) : (s.consumeKeyNonceReftag).nonce = .wiped := rfl
@[simp] theorem consumeKeyNonceReftag_pkey (s : State) : (s.consumeKeyNonceReftag).pkey = s.pkey := rfl
@[simp] theorem consumeKeyNonceReftag_reftag (s : State) : (s.consumeKeyNonceReftag).reftag = .wiped := rfl
@[simp] theorem consumeKeyNonceReftag_tag (s : State) : (s.consumeKeyNonceReftag).tag = s.tag := rfl
@[simp] theorem consumeKeyNonceReftag_unit (s : State) : (s.consumeKeyNonceReftag).unit = s.unit := rfl
@[simp] theorem consumeKeyNonceReftag_mbuf (s : State) : (s.consumeKeyNonceReftag).mbuf = s.mbuf := rfl
@[simp] theorem consumeKeyNonceReftag_mbufBytes (s : State) : (s.consumeKeyNonceReftag).mbufBytes = s.mbufBytes := rfl
@[simp] theorem consumeKeyNonceReftag_mbufEpoch (s : State) : (s.consumeKeyNonceReftag).mbufEpoch = s.mbufEpoch := rfl
@[simp] theorem consumeKeyNonceReftag_port (s : State) : (s.consumeKeyNonceReftag).port = s.port := rfl
@[simp] theorem consumeKeyNonceReftag_events (s : State) : (s.consumeKeyNonceReftag).events = s.events := rfl
@[simp] theorem consumeKeyNonceReftag_responses (s : State) : (s.consumeKeyNonceReftag).responses = s.responses := rfl

/-! ## refuseWrite -/

@[simp] theorem refuseWrite_busy (s : State) : (s.refuseWrite).busy = s.busy := rfl
@[simp] theorem refuseWrite_err (s : State) : (s.refuseWrite).err = s.err := rfl
@[simp] theorem refuseWrite_tagMatch (s : State) : (s.refuseWrite).tagMatch = s.tagMatch := rfl
@[simp] theorem refuseWrite_tagv (s : State) : (s.refuseWrite).tagv = s.tagv := rfl
@[simp] theorem refuseWrite_pstate (s : State) : (s.refuseWrite).pstate = s.pstate := rfl
@[simp] theorem refuseWrite_errcode (s : State) : (s.refuseWrite).errcode = s.errcode := rfl
@[simp] theorem refuseWrite_irqEn (s : State) : (s.refuseWrite).irqEn = s.irqEn := rfl
@[simp] theorem refuseWrite_irqStat (s : State) : (s.refuseWrite).irqStat = { s.irqStat with werr := true } := rfl
@[simp] theorem refuseWrite_pend (s : State) : (s.refuseWrite).pend = s.pend := rfl
@[simp] theorem refuseWrite_srcOff (s : State) : (s.refuseWrite).srcOff = s.srcOff := rfl
@[simp] theorem refuseWrite_srcLen (s : State) : (s.refuseWrite).srcLen = s.srcLen := rfl
@[simp] theorem refuseWrite_aadOff (s : State) : (s.refuseWrite).aadOff = s.aadOff := rfl
@[simp] theorem refuseWrite_aadLen (s : State) : (s.refuseWrite).aadLen = s.aadLen := rfl
@[simp] theorem refuseWrite_dstOff (s : State) : (s.refuseWrite).dstOff = s.dstOff := rfl
@[simp] theorem refuseWrite_key (s : State) : (s.refuseWrite).key = s.key := rfl
@[simp] theorem refuseWrite_nonce (s : State) : (s.refuseWrite).nonce = s.nonce := rfl
@[simp] theorem refuseWrite_pkey (s : State) : (s.refuseWrite).pkey = s.pkey := rfl
@[simp] theorem refuseWrite_reftag (s : State) : (s.refuseWrite).reftag = s.reftag := rfl
@[simp] theorem refuseWrite_tag (s : State) : (s.refuseWrite).tag = s.tag := rfl
@[simp] theorem refuseWrite_unit (s : State) : (s.refuseWrite).unit = s.unit := rfl
@[simp] theorem refuseWrite_mbuf (s : State) : (s.refuseWrite).mbuf = s.mbuf := rfl
@[simp] theorem refuseWrite_mbufBytes (s : State) : (s.refuseWrite).mbufBytes = s.mbufBytes := rfl
@[simp] theorem refuseWrite_mbufEpoch (s : State) : (s.refuseWrite).mbufEpoch = s.mbufEpoch := rfl
@[simp] theorem refuseWrite_port (s : State) : (s.refuseWrite).port = s.port := rfl
@[simp] theorem refuseWrite_events (s : State) : (s.refuseWrite).events = s.events := rfl
@[simp] theorem refuseWrite_responses (s : State) : (s.refuseWrite).responses = s.responses := rfl

/-! ## aeadExitEncrypt -/

@[simp] theorem aeadExitEncrypt_busy (s : State) : (s.aeadExitEncrypt).busy = s.busy := rfl
@[simp] theorem aeadExitEncrypt_err (s : State) : (s.aeadExitEncrypt).err = s.err := rfl
@[simp] theorem aeadExitEncrypt_tagMatch (s : State) : (s.aeadExitEncrypt).tagMatch = s.tagMatch := rfl
@[simp] theorem aeadExitEncrypt_tagv (s : State) : (s.aeadExitEncrypt).tagv = s.tagv := rfl
@[simp] theorem aeadExitEncrypt_pstate (s : State) : (s.aeadExitEncrypt).pstate = .empty := rfl
@[simp] theorem aeadExitEncrypt_errcode (s : State) : (s.aeadExitEncrypt).errcode = s.errcode := rfl
@[simp] theorem aeadExitEncrypt_irqEn (s : State) : (s.aeadExitEncrypt).irqEn = s.irqEn := rfl
@[simp] theorem aeadExitEncrypt_irqStat (s : State) : (s.aeadExitEncrypt).irqStat = s.irqStat := rfl
@[simp] theorem aeadExitEncrypt_pend (s : State) : (s.aeadExitEncrypt).pend = s.pend := rfl
@[simp] theorem aeadExitEncrypt_srcOff (s : State) : (s.aeadExitEncrypt).srcOff = s.srcOff := rfl
@[simp] theorem aeadExitEncrypt_srcLen (s : State) : (s.aeadExitEncrypt).srcLen = s.srcLen := rfl
@[simp] theorem aeadExitEncrypt_aadOff (s : State) : (s.aeadExitEncrypt).aadOff = s.aadOff := rfl
@[simp] theorem aeadExitEncrypt_aadLen (s : State) : (s.aeadExitEncrypt).aadLen = s.aadLen := rfl
@[simp] theorem aeadExitEncrypt_dstOff (s : State) : (s.aeadExitEncrypt).dstOff = s.dstOff := rfl
@[simp] theorem aeadExitEncrypt_key (s : State) : (s.aeadExitEncrypt).key = .wiped := rfl
@[simp] theorem aeadExitEncrypt_nonce (s : State) : (s.aeadExitEncrypt).nonce = .wiped := rfl
@[simp] theorem aeadExitEncrypt_pkey (s : State) : (s.aeadExitEncrypt).pkey = s.pkey := rfl
@[simp] theorem aeadExitEncrypt_reftag (s : State) : (s.aeadExitEncrypt).reftag = s.reftag := rfl
@[simp] theorem aeadExitEncrypt_tag (s : State) : (s.aeadExitEncrypt).tag = s.tag := rfl
@[simp] theorem aeadExitEncrypt_unit (s : State) : (s.aeadExitEncrypt).unit = .zero := rfl
@[simp] theorem aeadExitEncrypt_mbuf (s : State) : (s.aeadExitEncrypt).mbuf = s.mbuf := rfl
@[simp] theorem aeadExitEncrypt_mbufBytes (s : State) : (s.aeadExitEncrypt).mbufBytes = s.mbufBytes := rfl
@[simp] theorem aeadExitEncrypt_mbufEpoch (s : State) : (s.aeadExitEncrypt).mbufEpoch = s.mbufEpoch := rfl
@[simp] theorem aeadExitEncrypt_port (s : State) : (s.aeadExitEncrypt).port = s.port := rfl
@[simp] theorem aeadExitEncrypt_events (s : State) : (s.aeadExitEncrypt).events = s.events := rfl
@[simp] theorem aeadExitEncrypt_responses (s : State) : (s.aeadExitEncrypt).responses = s.responses := rfl

/-! ## aeadExitDecrypt -/

@[simp] theorem aeadExitDecrypt_busy (s : State) : (s.aeadExitDecrypt).busy = s.busy := rfl
@[simp] theorem aeadExitDecrypt_err (s : State) : (s.aeadExitDecrypt).err = s.err := rfl
@[simp] theorem aeadExitDecrypt_tagMatch (s : State) : (s.aeadExitDecrypt).tagMatch = s.tagMatch := rfl
@[simp] theorem aeadExitDecrypt_tagv (s : State) : (s.aeadExitDecrypt).tagv = s.tagv := rfl
@[simp] theorem aeadExitDecrypt_pstate (s : State) : (s.aeadExitDecrypt).pstate = .empty := rfl
@[simp] theorem aeadExitDecrypt_errcode (s : State) : (s.aeadExitDecrypt).errcode = s.errcode := rfl
@[simp] theorem aeadExitDecrypt_irqEn (s : State) : (s.aeadExitDecrypt).irqEn = s.irqEn := rfl
@[simp] theorem aeadExitDecrypt_irqStat (s : State) : (s.aeadExitDecrypt).irqStat = s.irqStat := rfl
@[simp] theorem aeadExitDecrypt_pend (s : State) : (s.aeadExitDecrypt).pend = s.pend := rfl
@[simp] theorem aeadExitDecrypt_srcOff (s : State) : (s.aeadExitDecrypt).srcOff = s.srcOff := rfl
@[simp] theorem aeadExitDecrypt_srcLen (s : State) : (s.aeadExitDecrypt).srcLen = s.srcLen := rfl
@[simp] theorem aeadExitDecrypt_aadOff (s : State) : (s.aeadExitDecrypt).aadOff = s.aadOff := rfl
@[simp] theorem aeadExitDecrypt_aadLen (s : State) : (s.aeadExitDecrypt).aadLen = s.aadLen := rfl
@[simp] theorem aeadExitDecrypt_dstOff (s : State) : (s.aeadExitDecrypt).dstOff = s.dstOff := rfl
@[simp] theorem aeadExitDecrypt_key (s : State) : (s.aeadExitDecrypt).key = .wiped := rfl
@[simp] theorem aeadExitDecrypt_nonce (s : State) : (s.aeadExitDecrypt).nonce = .wiped := rfl
@[simp] theorem aeadExitDecrypt_pkey (s : State) : (s.aeadExitDecrypt).pkey = s.pkey := rfl
@[simp] theorem aeadExitDecrypt_reftag (s : State) : (s.aeadExitDecrypt).reftag = .wiped := rfl
@[simp] theorem aeadExitDecrypt_tag (s : State) : (s.aeadExitDecrypt).tag = s.tag := rfl
@[simp] theorem aeadExitDecrypt_unit (s : State) : (s.aeadExitDecrypt).unit = .zero := rfl
@[simp] theorem aeadExitDecrypt_mbuf (s : State) : (s.aeadExitDecrypt).mbuf = s.mbuf := rfl
@[simp] theorem aeadExitDecrypt_mbufBytes (s : State) : (s.aeadExitDecrypt).mbufBytes = s.mbufBytes := rfl
@[simp] theorem aeadExitDecrypt_mbufEpoch (s : State) : (s.aeadExitDecrypt).mbufEpoch = s.mbufEpoch := rfl
@[simp] theorem aeadExitDecrypt_port (s : State) : (s.aeadExitDecrypt).port = s.port := rfl
@[simp] theorem aeadExitDecrypt_events (s : State) : (s.aeadExitDecrypt).events = s.events := rfl
@[simp] theorem aeadExitDecrypt_responses (s : State) : (s.aeadExitDecrypt).responses = s.responses := rfl

/-! ## wipeRegisters -/

@[simp] theorem wipeRegisters_busy (s : State) : (s.wipeRegisters).busy = s.busy := rfl
@[simp] theorem wipeRegisters_err (s : State) : (s.wipeRegisters).err = s.err := rfl
@[simp] theorem wipeRegisters_tagMatch (s : State) : (s.wipeRegisters).tagMatch = false := rfl
@[simp] theorem wipeRegisters_tagv (s : State) : (s.wipeRegisters).tagv = false := rfl
@[simp] theorem wipeRegisters_pstate (s : State) : (s.wipeRegisters).pstate = .empty := rfl
@[simp] theorem wipeRegisters_errcode (s : State) : (s.wipeRegisters).errcode = s.errcode := rfl
@[simp] theorem wipeRegisters_irqEn (s : State) : (s.wipeRegisters).irqEn = s.irqEn := rfl
@[simp] theorem wipeRegisters_irqStat (s : State) : (s.wipeRegisters).irqStat = s.irqStat := rfl
@[simp] theorem wipeRegisters_pend (s : State) : (s.wipeRegisters).pend = s.pend := rfl
@[simp] theorem wipeRegisters_srcOff (s : State) : (s.wipeRegisters).srcOff = s.srcOff := rfl
@[simp] theorem wipeRegisters_srcLen (s : State) : (s.wipeRegisters).srcLen = s.srcLen := rfl
@[simp] theorem wipeRegisters_aadOff (s : State) : (s.wipeRegisters).aadOff = s.aadOff := rfl
@[simp] theorem wipeRegisters_aadLen (s : State) : (s.wipeRegisters).aadLen = s.aadLen := rfl
@[simp] theorem wipeRegisters_dstOff (s : State) : (s.wipeRegisters).dstOff = s.dstOff := rfl
@[simp] theorem wipeRegisters_key (s : State) : (s.wipeRegisters).key = .wiped := rfl
@[simp] theorem wipeRegisters_nonce (s : State) : (s.wipeRegisters).nonce = .wiped := rfl
@[simp] theorem wipeRegisters_pkey (s : State) : (s.wipeRegisters).pkey = .wiped := rfl
@[simp] theorem wipeRegisters_reftag (s : State) : (s.wipeRegisters).reftag = .wiped := rfl
@[simp] theorem wipeRegisters_tag (s : State) : (s.wipeRegisters).tag = zeroTag := rfl
@[simp] theorem wipeRegisters_unit (s : State) : (s.wipeRegisters).unit = .zero := rfl
@[simp] theorem wipeRegisters_mbuf (s : State) : (s.wipeRegisters).mbuf = s.mbuf := rfl
@[simp] theorem wipeRegisters_mbufBytes (s : State) : (s.wipeRegisters).mbufBytes = s.mbufBytes := rfl
@[simp] theorem wipeRegisters_mbufEpoch (s : State) : (s.wipeRegisters).mbufEpoch = s.mbufEpoch := rfl
@[simp] theorem wipeRegisters_port (s : State) : (s.wipeRegisters).port = s.port := rfl
@[simp] theorem wipeRegisters_events (s : State) : (s.wipeRegisters).events = s.events := rfl
@[simp] theorem wipeRegisters_responses (s : State) : (s.wipeRegisters).responses = s.responses := rfl

/-! ## accept -/

@[simp] theorem accept_busy (s : State) (w : Word) : (s.accept w).busy = true := rfl
@[simp] theorem accept_err (s : State) (w : Word) : (s.accept w).err = false := rfl
@[simp] theorem accept_tagMatch (s : State) (w : Word) : (s.accept w).tagMatch = false := rfl
@[simp] theorem accept_tagv (s : State) (w : Word) : (s.accept w).tagv = s.tagv := rfl
@[simp] theorem accept_pstate (s : State) (w : Word) : (s.accept w).pstate = s.pstate := rfl
@[simp] theorem accept_errcode (s : State) (w : Word) : (s.accept w).errcode = .noError := rfl
@[simp] theorem accept_irqEn (s : State) (w : Word) : (s.accept w).irqEn = s.irqEn := rfl
@[simp] theorem accept_irqStat (s : State) (w : Word) : (s.accept w).irqStat = s.irqStat := rfl
@[simp] theorem accept_pend (s : State) (w : Word) : (s.accept w).pend = w := rfl
@[simp] theorem accept_srcOff (s : State) (w : Word) : (s.accept w).srcOff = s.srcOff := rfl
@[simp] theorem accept_srcLen (s : State) (w : Word) : (s.accept w).srcLen = s.srcLen := rfl
@[simp] theorem accept_aadOff (s : State) (w : Word) : (s.accept w).aadOff = s.aadOff := rfl
@[simp] theorem accept_aadLen (s : State) (w : Word) : (s.accept w).aadLen = s.aadLen := rfl
@[simp] theorem accept_dstOff (s : State) (w : Word) : (s.accept w).dstOff = s.dstOff := rfl
@[simp] theorem accept_key (s : State) (w : Word) : (s.accept w).key = s.key := rfl
@[simp] theorem accept_nonce (s : State) (w : Word) : (s.accept w).nonce = s.nonce := rfl
@[simp] theorem accept_pkey (s : State) (w : Word) : (s.accept w).pkey = s.pkey := rfl
@[simp] theorem accept_reftag (s : State) (w : Word) : (s.accept w).reftag = s.reftag := rfl
@[simp] theorem accept_tag (s : State) (w : Word) : (s.accept w).tag = s.tag := rfl
@[simp] theorem accept_unit (s : State) (w : Word) : (s.accept w).unit = s.unit := rfl
@[simp] theorem accept_mbuf (s : State) (w : Word) : (s.accept w).mbuf = s.mbuf := rfl
@[simp] theorem accept_mbufBytes (s : State) (w : Word) : (s.accept w).mbufBytes = s.mbufBytes := rfl
@[simp] theorem accept_mbufEpoch (s : State) (w : Word) : (s.accept w).mbufEpoch = s.mbufEpoch := rfl
@[simp] theorem accept_port (s : State) (w : Word) : (s.accept w).port = s.port := rfl
@[simp] theorem accept_events (s : State) (w : Word) : (s.accept w).events = s.events := rfl
@[simp] theorem accept_responses (s : State) (w : Word) : (s.accept w).responses = s.responses := rfl

/-! ## memWrite -/

@[simp] theorem memWrite_busy (s : State) (off : Nat) (x : Bytes) : (s.memWrite off x).busy = s.busy := rfl
@[simp] theorem memWrite_err (s : State) (off : Nat) (x : Bytes) : (s.memWrite off x).err = s.err := rfl
@[simp] theorem memWrite_tagMatch (s : State) (off : Nat) (x : Bytes) : (s.memWrite off x).tagMatch = s.tagMatch := rfl
@[simp] theorem memWrite_tagv (s : State) (off : Nat) (x : Bytes) : (s.memWrite off x).tagv = s.tagv := rfl
@[simp] theorem memWrite_pstate (s : State) (off : Nat) (x : Bytes) : (s.memWrite off x).pstate = s.pstate := rfl
@[simp] theorem memWrite_errcode (s : State) (off : Nat) (x : Bytes) : (s.memWrite off x).errcode = s.errcode := rfl
@[simp] theorem memWrite_irqEn (s : State) (off : Nat) (x : Bytes) : (s.memWrite off x).irqEn = s.irqEn := rfl
@[simp] theorem memWrite_irqStat (s : State) (off : Nat) (x : Bytes) : (s.memWrite off x).irqStat = s.irqStat := rfl
@[simp] theorem memWrite_pend (s : State) (off : Nat) (x : Bytes) : (s.memWrite off x).pend = s.pend := rfl
@[simp] theorem memWrite_srcOff (s : State) (off : Nat) (x : Bytes) : (s.memWrite off x).srcOff = s.srcOff := rfl
@[simp] theorem memWrite_srcLen (s : State) (off : Nat) (x : Bytes) : (s.memWrite off x).srcLen = s.srcLen := rfl
@[simp] theorem memWrite_aadOff (s : State) (off : Nat) (x : Bytes) : (s.memWrite off x).aadOff = s.aadOff := rfl
@[simp] theorem memWrite_aadLen (s : State) (off : Nat) (x : Bytes) : (s.memWrite off x).aadLen = s.aadLen := rfl
@[simp] theorem memWrite_dstOff (s : State) (off : Nat) (x : Bytes) : (s.memWrite off x).dstOff = s.dstOff := rfl
@[simp] theorem memWrite_key (s : State) (off : Nat) (x : Bytes) : (s.memWrite off x).key = s.key := rfl
@[simp] theorem memWrite_nonce (s : State) (off : Nat) (x : Bytes) : (s.memWrite off x).nonce = s.nonce := rfl
@[simp] theorem memWrite_pkey (s : State) (off : Nat) (x : Bytes) : (s.memWrite off x).pkey = s.pkey := rfl
@[simp] theorem memWrite_reftag (s : State) (off : Nat) (x : Bytes) : (s.memWrite off x).reftag = s.reftag := rfl
@[simp] theorem memWrite_tag (s : State) (off : Nat) (x : Bytes) : (s.memWrite off x).tag = s.tag := rfl
@[simp] theorem memWrite_unit (s : State) (off : Nat) (x : Bytes) : (s.memWrite off x).unit = s.unit := rfl
@[simp] theorem memWrite_mbuf (s : State) (off : Nat) (x : Bytes) : (s.memWrite off x).mbuf = Memory.write s.mbuf off x := rfl
@[simp] theorem memWrite_mbufBytes (s : State) (off : Nat) (x : Bytes) : (s.memWrite off x).mbufBytes = s.mbufBytes := rfl
@[simp] theorem memWrite_mbufEpoch (s : State) (off : Nat) (x : Bytes) : (s.memWrite off x).mbufEpoch = s.mbufEpoch := rfl
@[simp] theorem memWrite_port (s : State) (off : Nat) (x : Bytes) : (s.memWrite off x).port = s.port := rfl
@[simp] theorem memWrite_events (s : State) (off : Nat) (x : Bytes) : (s.memWrite off x).events = s.events := rfl
@[simp] theorem memWrite_responses (s : State) (off : Nat) (x : Bytes) : (s.memWrite off x).responses = s.responses := rfl

/-! ## zeroDst -/

@[simp] theorem zeroDst_busy (s : State) : (s.zeroDst).busy = s.busy := rfl
@[simp] theorem zeroDst_err (s : State) : (s.zeroDst).err = s.err := rfl
@[simp] theorem zeroDst_tagMatch (s : State) : (s.zeroDst).tagMatch = s.tagMatch := rfl
@[simp] theorem zeroDst_tagv (s : State) : (s.zeroDst).tagv = s.tagv := rfl
@[simp] theorem zeroDst_pstate (s : State) : (s.zeroDst).pstate = s.pstate := rfl
@[simp] theorem zeroDst_errcode (s : State) : (s.zeroDst).errcode = s.errcode := rfl
@[simp] theorem zeroDst_irqEn (s : State) : (s.zeroDst).irqEn = s.irqEn := rfl
@[simp] theorem zeroDst_irqStat (s : State) : (s.zeroDst).irqStat = s.irqStat := rfl
@[simp] theorem zeroDst_pend (s : State) : (s.zeroDst).pend = s.pend := rfl
@[simp] theorem zeroDst_srcOff (s : State) : (s.zeroDst).srcOff = s.srcOff := rfl
@[simp] theorem zeroDst_srcLen (s : State) : (s.zeroDst).srcLen = s.srcLen := rfl
@[simp] theorem zeroDst_aadOff (s : State) : (s.zeroDst).aadOff = s.aadOff := rfl
@[simp] theorem zeroDst_aadLen (s : State) : (s.zeroDst).aadLen = s.aadLen := rfl
@[simp] theorem zeroDst_dstOff (s : State) : (s.zeroDst).dstOff = s.dstOff := rfl
@[simp] theorem zeroDst_key (s : State) : (s.zeroDst).key = s.key := rfl
@[simp] theorem zeroDst_nonce (s : State) : (s.zeroDst).nonce = s.nonce := rfl
@[simp] theorem zeroDst_pkey (s : State) : (s.zeroDst).pkey = s.pkey := rfl
@[simp] theorem zeroDst_reftag (s : State) : (s.zeroDst).reftag = s.reftag := rfl
@[simp] theorem zeroDst_tag (s : State) : (s.zeroDst).tag = s.tag := rfl
@[simp] theorem zeroDst_unit (s : State) : (s.zeroDst).unit = s.unit := rfl
@[simp] theorem zeroDst_mbuf (s : State) : (s.zeroDst).mbuf = Memory.write s.mbuf s.dstOff.toNat (zeros s.srcLen.toNat) := rfl
@[simp] theorem zeroDst_mbufBytes (s : State) : (s.zeroDst).mbufBytes = s.mbufBytes := rfl
@[simp] theorem zeroDst_mbufEpoch (s : State) : (s.zeroDst).mbufEpoch = s.mbufEpoch := rfl
@[simp] theorem zeroDst_port (s : State) : (s.zeroDst).port = s.port := rfl
@[simp] theorem zeroDst_events (s : State) : (s.zeroDst).events = s.events := rfl
@[simp] theorem zeroDst_responses (s : State) : (s.zeroDst).responses = s.responses := rfl

/-! ## wipeMbuf -/

@[simp] theorem wipeMbuf_busy (s : State) : (s.wipeMbuf).busy = s.busy := rfl
@[simp] theorem wipeMbuf_err (s : State) : (s.wipeMbuf).err = s.err := rfl
@[simp] theorem wipeMbuf_tagMatch (s : State) : (s.wipeMbuf).tagMatch = s.tagMatch := rfl
@[simp] theorem wipeMbuf_tagv (s : State) : (s.wipeMbuf).tagv = s.tagv := rfl
@[simp] theorem wipeMbuf_pstate (s : State) : (s.wipeMbuf).pstate = s.pstate := rfl
@[simp] theorem wipeMbuf_errcode (s : State) : (s.wipeMbuf).errcode = s.errcode := rfl
@[simp] theorem wipeMbuf_irqEn (s : State) : (s.wipeMbuf).irqEn = s.irqEn := rfl
@[simp] theorem wipeMbuf_irqStat (s : State) : (s.wipeMbuf).irqStat = s.irqStat := rfl
@[simp] theorem wipeMbuf_pend (s : State) : (s.wipeMbuf).pend = s.pend := rfl
@[simp] theorem wipeMbuf_srcOff (s : State) : (s.wipeMbuf).srcOff = s.srcOff := rfl
@[simp] theorem wipeMbuf_srcLen (s : State) : (s.wipeMbuf).srcLen = s.srcLen := rfl
@[simp] theorem wipeMbuf_aadOff (s : State) : (s.wipeMbuf).aadOff = s.aadOff := rfl
@[simp] theorem wipeMbuf_aadLen (s : State) : (s.wipeMbuf).aadLen = s.aadLen := rfl
@[simp] theorem wipeMbuf_dstOff (s : State) : (s.wipeMbuf).dstOff = s.dstOff := rfl
@[simp] theorem wipeMbuf_key (s : State) : (s.wipeMbuf).key = s.key := rfl
@[simp] theorem wipeMbuf_nonce (s : State) : (s.wipeMbuf).nonce = s.nonce := rfl
@[simp] theorem wipeMbuf_pkey (s : State) : (s.wipeMbuf).pkey = s.pkey := rfl
@[simp] theorem wipeMbuf_reftag (s : State) : (s.wipeMbuf).reftag = s.reftag := rfl
@[simp] theorem wipeMbuf_tag (s : State) : (s.wipeMbuf).tag = s.tag := rfl
@[simp] theorem wipeMbuf_unit (s : State) : (s.wipeMbuf).unit = s.unit := rfl
@[simp] theorem wipeMbuf_mbuf (s : State) : (s.wipeMbuf).mbuf = Memory.write s.mbuf 0 (zeros s.mbufBytes) := rfl
@[simp] theorem wipeMbuf_mbufBytes (s : State) : (s.wipeMbuf).mbufBytes = s.mbufBytes := rfl
@[simp] theorem wipeMbuf_mbufEpoch (s : State) : (s.wipeMbuf).mbufEpoch = s.mbufEpoch := rfl
@[simp] theorem wipeMbuf_port (s : State) : (s.wipeMbuf).port = s.port := rfl
@[simp] theorem wipeMbuf_events (s : State) : (s.wipeMbuf).events = s.events := rfl
@[simp] theorem wipeMbuf_responses (s : State) : (s.wipeMbuf).responses = s.responses := rfl

/-! ## finishError -/

@[simp] theorem finishError_busy (e : ErrCode) (s : State) : (s.finishError e).busy = false := rfl
@[simp] theorem finishError_err (e : ErrCode) (s : State) : (s.finishError e).err = true := rfl
@[simp] theorem finishError_tagMatch (e : ErrCode) (s : State) : (s.finishError e).tagMatch = s.tagMatch := rfl
@[simp] theorem finishError_tagv (e : ErrCode) (s : State) : (s.finishError e).tagv = s.tagv := rfl
@[simp] theorem finishError_pstate (e : ErrCode) (s : State) : (s.finishError e).pstate = s.pstate := rfl
@[simp] theorem finishError_errcode (e : ErrCode) (s : State) : (s.finishError e).errcode = e := rfl
@[simp] theorem finishError_irqEn (e : ErrCode) (s : State) : (s.finishError e).irqEn = s.irqEn := rfl
@[simp] theorem finishError_irqStat (e : ErrCode) (s : State) : (s.finishError e).irqStat = { s.irqStat with done := true, err := true } := rfl
@[simp] theorem finishError_pend (e : ErrCode) (s : State) : (s.finishError e).pend = s.pend := rfl
@[simp] theorem finishError_srcOff (e : ErrCode) (s : State) : (s.finishError e).srcOff = s.srcOff := rfl
@[simp] theorem finishError_srcLen (e : ErrCode) (s : State) : (s.finishError e).srcLen = s.srcLen := rfl
@[simp] theorem finishError_aadOff (e : ErrCode) (s : State) : (s.finishError e).aadOff = s.aadOff := rfl
@[simp] theorem finishError_aadLen (e : ErrCode) (s : State) : (s.finishError e).aadLen = s.aadLen := rfl
@[simp] theorem finishError_dstOff (e : ErrCode) (s : State) : (s.finishError e).dstOff = s.dstOff := rfl
@[simp] theorem finishError_key (e : ErrCode) (s : State) : (s.finishError e).key = s.key := rfl
@[simp] theorem finishError_nonce (e : ErrCode) (s : State) : (s.finishError e).nonce = s.nonce := rfl
@[simp] theorem finishError_pkey (e : ErrCode) (s : State) : (s.finishError e).pkey = s.pkey := rfl
@[simp] theorem finishError_reftag (e : ErrCode) (s : State) : (s.finishError e).reftag = s.reftag := rfl
@[simp] theorem finishError_tag (e : ErrCode) (s : State) : (s.finishError e).tag = s.tag := rfl
@[simp] theorem finishError_unit (e : ErrCode) (s : State) : (s.finishError e).unit = s.unit := rfl
@[simp] theorem finishError_mbuf (e : ErrCode) (s : State) : (s.finishError e).mbuf = s.mbuf := rfl
@[simp] theorem finishError_mbufBytes (e : ErrCode) (s : State) : (s.finishError e).mbufBytes = s.mbufBytes := rfl
@[simp] theorem finishError_mbufEpoch (e : ErrCode) (s : State) : (s.finishError e).mbufEpoch = s.mbufEpoch := rfl
@[simp] theorem finishError_port (e : ErrCode) (s : State) : (s.finishError e).port = s.port := rfl
@[simp] theorem finishError_events (e : ErrCode) (s : State) : (s.finishError e).events = s.events := rfl
@[simp] theorem finishError_responses (e : ErrCode) (s : State) : (s.finishError e).responses = s.responses := rfl

/-! ## resetEvent -/

@[simp] theorem resetEvent_busy (s : State) : s.resetEvent.busy = false := rfl
@[simp] theorem resetEvent_err (s : State) : s.resetEvent.err = false := rfl
@[simp] theorem resetEvent_tagMatch (s : State) : s.resetEvent.tagMatch = false := rfl
@[simp] theorem resetEvent_tagv (s : State) : s.resetEvent.tagv = false := rfl
@[simp] theorem resetEvent_pstate (s : State) : s.resetEvent.pstate = .empty := rfl
@[simp] theorem resetEvent_errcode (s : State) : s.resetEvent.errcode = .noError := rfl
@[simp] theorem resetEvent_irqEn (s : State) : s.resetEvent.irqEn = .clear := rfl
@[simp] theorem resetEvent_irqStat (s : State) : s.resetEvent.irqStat = .clear := rfl
@[simp] theorem resetEvent_pend (s : State) : s.resetEvent.pend = 0#32 := rfl
@[simp] theorem resetEvent_srcOff (s : State) : s.resetEvent.srcOff = 0#32 := rfl
@[simp] theorem resetEvent_srcLen (s : State) : s.resetEvent.srcLen = 0#32 := rfl
@[simp] theorem resetEvent_aadOff (s : State) : s.resetEvent.aadOff = 0#32 := rfl
@[simp] theorem resetEvent_aadLen (s : State) : s.resetEvent.aadLen = 0#32 := rfl
@[simp] theorem resetEvent_dstOff (s : State) : s.resetEvent.dstOff = 0#32 := rfl
@[simp] theorem resetEvent_key (s : State) : s.resetEvent.key = .wiped := rfl
@[simp] theorem resetEvent_nonce (s : State) : s.resetEvent.nonce = .wiped := rfl
@[simp] theorem resetEvent_pkey (s : State) : s.resetEvent.pkey = .wiped := rfl
@[simp] theorem resetEvent_reftag (s : State) : s.resetEvent.reftag = .wiped := rfl
@[simp] theorem resetEvent_tag (s : State) : s.resetEvent.tag = zeroTag := rfl
@[simp] theorem resetEvent_unit (s : State) : s.resetEvent.unit = .zero := rfl
@[simp] theorem resetEvent_mbuf (s : State) : s.resetEvent.mbuf = [] := rfl
@[simp] theorem resetEvent_mbufBytes (s : State) : s.resetEvent.mbufBytes = s.mbufBytes := rfl
@[simp] theorem resetEvent_mbufEpoch (s : State) : s.resetEvent.mbufEpoch = s.mbufEpoch + 1 := rfl
@[simp] theorem resetEvent_port (s : State) : s.resetEvent.port = s.port := rfl
@[simp] theorem resetEvent_events (s : State) : s.resetEvent.events = s.events := rfl
@[simp] theorem resetEvent_responses (s : State) : s.resetEvent.responses = s.responses := rfl

end Sys2Proof.Machine.State
end

