-- ==== Sys2Proof/Laws/Memory.lean ====
section
/-! SUPPORT. Laws/Memory.lean: read after write, and that every memory operation keeps the canonical form. -/

namespace Sys2Proof.Machine

namespace Memory

theorem get?_append (m n : Memory) (o : Nat) :
    get? (m ++ n) o = (get? m o).or (get? n o) := by
  induction m with
  | nil => simp [get?]
  | cons c m ih =>
    obtain ⟨a, b⟩ := c
    by_cases h : a = o <;> simp [get?, h, ih]

theorem get?_filter (m : Memory) (p : Host.Cell → Bool) (o : Nat) (q : Bool) (h : ∀ c : Host.Cell, c.1 = o → p c = q) :
    get? (m.filter p) o = if q then get? m o else none := by
  induction m with
  | nil => simp [get?]
  | cons c m ih =>
    obtain ⟨a, b⟩ := c
    by_cases ha : a = o
    · have := h (a, b) ha
      cases q <;> simp_all [get?]
    · by_cases hp : p (a, b) <;> simp [hp, get?, ha, ih]

theorem get?_cellsFrom (off : Nat) (x : Bytes) (o : Nat) :
    get? (cellsFrom off x) o = if off ≤ o then x[o - off]? else none := by
  induction x generalizing off with
  | nil => simp [cellsFrom, get?]
  | cons b x ih =>
    by_cases h : off = o
    · subst h; simp [cellsFrom, get?]
    · by_cases h2 : off ≤ o
      · obtain ⟨k, hk⟩ : ∃ k, o - off = k + 1 := ⟨o - off - 1, by omega⟩
        have hk' : o - (off + 1) = k := by omega
        simp [cellsFrom, get?, h, ih, h2, hk, hk', show off + 1 ≤ o by omega]
      · simp [cellsFrom, get?, h, ih, h2, show ¬ off + 1 ≤ o by omega]

/-- Read after write: inside the written range the written byte, outside it what was there. -/
theorem get?_write (m : Memory) (off : Nat) (x : Bytes) (o : Nat) :
    get? (write m off x) o = if off ≤ o ∧ o < off + x.length then x[o - off]? else get? m o := by
  have h1 : get? (m.filter (fun c => c.1 < off)) o = if decide (o < off) then get? m o else none :=
    get?_filter m _ o (decide (o < off)) (fun c hc => by simp [hc])
  have h2 : get? (m.filter (fun c => off + x.length ≤ c.1)) o
      = if decide (off + x.length ≤ o) then get? m o else none :=
    get?_filter m _ o (decide (off + x.length ≤ o)) (fun c hc => by simp [hc])
  rw [write, get?_append, get?_append, h1, h2, get?_cellsFrom]
  by_cases ha : o < off
  · simp [ha, show ¬ off ≤ o by omega, show ¬ off + x.length ≤ o by omega]
  · have hle : off ≤ o := by omega
    by_cases hb : o < off + x.length
    · have hi : o - off < x.length := by omega
      simp [ha, hle, hb, show ¬ off + x.length ≤ o by omega, List.getElem?_eq_getElem hi]
    · have : x[o - off]? = none := List.getElem?_eq_none (by omega)
      simp [ha, hle, hb, show off + x.length ≤ o by omega, this]

theorem mem_cellsFrom {off : Nat} {x : Bytes} {c : Host.Cell} (h : c ∈ cellsFrom off x) :
    off ≤ c.1 ∧ c.1 < off + x.length := by
  induction x generalizing off with
  | nil => simp [cellsFrom] at h
  | cons b x ih =>
    rcases List.mem_cons.1 h with rfl | h
    · simp
    · have := ih h
      simp only [List.length_cons]
      omega

theorem wf_cellsFrom (off : Nat) (x : Bytes) : wf (cellsFrom off x) := by
  induction x generalizing off with
  | nil => exact List.Pairwise.nil
  | cons b x ih =>
    refine List.Pairwise.cons (fun c hc => ?_) (ih _)
    have := mem_cellsFrom hc
    simp only
    omega

/-- A write keeps the canonical form. -/
theorem wf_write {m : Memory} (h : wf m) (off : Nat) (x : Bytes) : wf (write m off x) := by
  refine List.pairwise_append.2 ⟨h.filter _, List.pairwise_append.2 ⟨wf_cellsFrom off x, h.filter _, ?_⟩, ?_⟩
  · intro c hc d hd
    have := mem_cellsFrom hc
    have := (List.mem_filter.1 hd).2
    simp only [decide_eq_true_eq] at this
    omega
  · intro c hc d hd
    have hc' := (List.mem_filter.1 hc).2
    simp only [decide_eq_true_eq] at hc'
    rcases List.mem_append.1 hd with hd | hd
    · have := mem_cellsFrom hd
      omega
    · have := (List.mem_filter.1 hd).2
      simp only [decide_eq_true_eq] at this
      omega

theorem wf_reset : wf State.reset.mbuf := List.Pairwise.nil

/-- A cell of a written memory was there before or lies in the written range. -/
theorem mem_write {m : Memory} {off : Nat} {x : Bytes} {c : Host.Cell} (h : c ∈ write m off x) :
    c ∈ m ∨ (off ≤ c.1 ∧ c.1 < off + x.length) := by
  rcases List.mem_append.1 h with h | h
  · exact .inl (List.mem_filter.1 h).1
  · rcases List.mem_append.1 h with h | h
    · exact .inr (mem_cellsFrom h)
    · exact .inl (List.mem_filter.1 h).1

end Memory

/-- Reading one byte after `MemWrite`. -/
theorem State.readByte_memWrite (s : State) (off : Nat) (x : Bytes) (o : Nat) :
    (s.memWrite off x).readByte o = if off ≤ o ∧ o < off + x.length then x.getD (o - off) 0#8 else s.readByte o := by
  simp only [readByte, memWrite_mbuf, memWrite_mbufEpoch, Memory.get?_write]
  split
  · rename_i h
    have hi : o - off < x.length := by omega
    simp [List.getElem?_eq_getElem hi]
  · rfl

@[simp] theorem State.length_memRead (s : State) (off n : Nat) : (s.memRead off n).length = n := by
  simp [memRead]

/-- `MemRead` of the range just written gives the string written. -/
theorem State.memRead_memWrite_same (s : State) (off : Nat) (x : Bytes) :
    (s.memWrite off x).memRead off x.length = x := by
  apply List.ext_getElem (by simp)
  intro i h1 h2
  simp [memRead, readByte_memWrite, h2]

/-- The same for any state whose MBUF is that written one, whatever else it holds. -/
theorem State.memRead_of_mbuf_eq {s t : State} {off : Nat} {x : Bytes} (hm : t.mbuf = Memory.write s.mbuf off x)
    (he : t.mbufEpoch = s.mbufEpoch) : t.memRead off x.length = x := by
  have h := s.memRead_memWrite_same off x
  simpa only [memRead, readByte, memWrite, hm, he] using h

/-- What `MemRead` reads depends on the bytes of its range only. -/
theorem State.memRead_congr {s t : State} {off n : Nat} (h : ∀ o, off ≤ o → o < off + n → t.readByte o = s.readByte o) :
    t.memRead off n = s.memRead off n := by
  apply List.ext_getElem (by simp)
  intro i h1 h2
  simp only [length_memRead] at h1
  simp [memRead, h (off + i) (by omega) (by omega)]

end Sys2Proof.Machine
end

