-- ==== Sys2Proof/Laws/Ops.lean ====
section
/-! SUPPORT. Laws/Ops.lean: one lemma per shared operation that says everything it can do: the keystream port's
requests and draws (spec/41_aead.md R150 to R152), input sets, and what completions answer. -/

namespace Sys2Proof.Machine

/-! ## Completions -/

@[simp] theorem complete_eq (s : State) : complete s = .next s.finish := rfl

@[simp] theorem raise_eq (e : ErrCode) (s : State) : raise e s = .next (s.finishError e) := rfl

/-! ## Input sets -/

namespace InputSet

theorem complete_iff {n : Nat} (x : InputSet n) : x.complete = true ↔ x.valid = BitVec.allOnes n := by
  simp [complete]

theorem write_words {n : Nat} (x : InputSet n) (i : Fin n) (w : Word) (j : Nat) (hj : j < n) :
    (x.write i w).words[j] = if i.val = j then w else x.words[j] := by
  simp [write, Vector.getElem_set]

theorem write_valid {n : Nat} (x : InputSet n) (i : Fin n) (w : Word) (j : Nat) (hj : j < n) :
    (x.write i w).valid.getLsbD j = (x.valid.getLsbD j || decide (i.val = j)) := by
  have := i.isLt
  simp only [write, BitVec.getLsbD_or, BitVec.getLsbD_twoPow]
  by_cases h : i.val = j <;> simp [h, hj]

theorem invalidZero_wiped {n : Nat} : (wiped : InputSet n).InvalidZero := by
  intro i hi _
  simp [wiped]

theorem invalidZero_write {n : Nat} {x : InputSet n} (h : x.InvalidZero) (i : Fin n) (w : Word) :
    (x.write i w).InvalidZero := by
  intro j hj hv
  rw [write_valid x i w j hj, Bool.or_eq_false_iff, decide_eq_false_iff_not] at hv
  rw [write_words x i w j hj, if_neg hv.2]
  exact h j hj hv.1

end InputSet

/-! ## The keystream port -/

namespace Port

theorem draw_eq_drawAt (p : Port) : p.draw = p.drawAt 0 := by
  cases h : p.fails <;> simp [draw, drawAt, h]

theorem drawAt_after (p : Port) (q : PortRequest) (j : Nat) : (p.after q).drawAt j = p.drawAt (j + 1) := by
  cases h : p.fails with
  | nil => simp [after, drawAt, h]; congr 1; omega
  | cons f rest => simp [after, drawAt, h]

@[simp] theorem log_after (p : Port) (q : PortRequest) : (p.after q).log = p.log ++ [q] := by
  cases h : p.fails <;> simp [after, h]

theorem okThrough_succ {p : Port} {n : Nat} (q : PortRequest) :
    p.OkThrough (n + 1) ↔ p.draw = false ∧ (p.after q).OkThrough n := by
  simp only [OkThrough, draw_eq_drawAt, drawAt_after]
  constructor
  · exact fun h => ⟨h 0 (by omega), fun j hj => h (j + 1) (by omega)⟩
  · rintro ⟨h0, h⟩ j hj
    cases j with
    | zero => exact h0
    | succ j => exact h j (by omega)

theorem firstFailAt_zero {p : Port} : p.FirstFailAt 0 ↔ p.draw = true := by
  simp [FirstFailAt, OkThrough, draw_eq_drawAt]

theorem firstFailAt_succ {p : Port} {n : Nat} (q : PortRequest) :
    p.FirstFailAt (n + 1) ↔ p.draw = false ∧ (p.after q).FirstFailAt n := by
  simp only [FirstFailAt, okThrough_succ q, drawAt_after, and_assoc]

end Port

/-- The requests for counters ctr, …, ctr + n − 1. -/
def requestsFrom (key : Vector Byte 32) (nonce : Vector Byte 12) (ctr n : Nat) : List PortRequest :=
  (List.range' ctr n).map fun j => { key := key, nonce := nonce, ctr := BitVec.ofNat 32 j }

theorem portRequests_eq (key : Vector Byte 32) (nonce : Vector Byte 12) (n : Nat) :
    portRequests key nonce n = requestsFrom key nonce 0 n := by
  simp [portRequests, requestsFrom, List.range_eq_range']

theorem portRequests_succ (key : Vector Byte 32) (nonce : Vector Byte 12) (n : Nat) :
    portRequests key nonce (n + 1)
      = { key := key, nonce := nonce, ctr := BitVec.ofNat 32 0 } :: requestsFrom key nonce 1 n := by
  simp [portRequests_eq, requestsFrom, List.range'_succ]

/-- The blocks for counters ctr, …, ctr + n − 1, joined. -/
def blocksFrom (ks : Keystream) (key : Vector Byte 32) (nonce : Vector Byte 12) (ctr n : Nat) : Bytes :=
  (List.range' ctr n).flatMap fun j => (ks key nonce (BitVec.ofNat 32 j)).toList

/-- When every draw is `ok`, `ksBlocks` gives the joined blocks and has made every request in order (R151). -/
theorem ksBlocks_ok (ks : Keystream) (key : Vector Byte 32) (nonce : Vector Byte 12) (n ctr : Nat) (p : Port)
    (h : p.OkThrough n) :
    ∃ p', ksBlocks ks key nonce n ctr p = (some (blocksFrom ks key nonce ctr n), p')
      ∧ p'.log = p.log ++ requestsFrom key nonce ctr n := by
  induction n generalizing ctr p with
  | zero => exact ⟨p, by simp [ksBlocks, blocksFrom, requestsFrom]⟩
  | succ n ih =>
    obtain ⟨hd, ht⟩ := (Port.okThrough_succ { key := key, nonce := nonce, ctr := BitVec.ofNat 32 ctr }).1 h
    obtain ⟨p', e, hl⟩ := ih (ctr + 1) _ ht
    refine ⟨p', by simp [ksBlocks, ksReq, hd, e, blocksFrom, List.range'_succ], ?_⟩
    simp [hl, requestsFrom, List.range'_succ]

/-- "The first `fail` stops the sequence" (R151). -/
theorem ksBlocks_fail (ks : Keystream) (key : Vector Byte 32) (nonce : Vector Byte 12) (n ctr j : Nat) (p : Port)
    (hj : j < n) (h : p.FirstFailAt j) :
    ∃ p', ksBlocks ks key nonce n ctr p = (none, p')
      ∧ p'.log = p.log ++ requestsFrom key nonce ctr (j + 1) := by
  induction n generalizing ctr p j with
  | zero => omega
  | succ n ih =>
    cases j with
    | zero =>
      have hd := Port.firstFailAt_zero.1 h
      exact ⟨_, by simp [ksBlocks, ksReq, hd]; rfl, by simp [requestsFrom]⟩
    | succ j =>
      obtain ⟨hd, ht⟩ := (Port.firstFailAt_succ { key := key, nonce := nonce, ctr := BitVec.ofNat 32 ctr }).1 h
      obtain ⟨p', e, hl⟩ := ih (ctr + 1) j _ (by omega) ht
      refine ⟨p', by simp [ksBlocks, ksReq, hd, e], ?_⟩
      rw [hl, Port.log_after, List.append_assoc]
      simp [requestsFrom, List.range'_succ]

@[simp] theorem length_blocksFrom (ks : Keystream) (key : Vector Byte 32) (nonce : Vector Byte 12) (ctr n : Nat) :
    (blocksFrom ks key nonce ctr n).length = 64 * n := by
  induction n generalizing ctr with
  | zero => rfl
  | succ n ih =>
    have := ih (ctr + 1)
    simp only [blocksFrom, List.range'_succ, List.flatMap_cons, List.length_append, Vector.length_toList] at *
    omega

theorem getElem?_blocksFrom (ks : Keystream) (key : Vector Byte 32) (nonce : Vector Byte 12) (ctr n i : Nat)
    (hi : i < 64 * n) :
    (blocksFrom ks key nonce ctr n)[i]?
      = some ((ks key nonce (BitVec.ofNat 32 (ctr + i / 64))).toList.getD (i % 64) 0#8) := by
  induction n generalizing ctr i with
  | zero => omega
  | succ n ih =>
    have e : blocksFrom ks key nonce ctr (n + 1)
        = (ks key nonce (BitVec.ofNat 32 ctr)).toList ++ blocksFrom ks key nonce (ctr + 1) n := by
      simp [blocksFrom, List.range'_succ]
    rw [e]
    by_cases h : i < 64
    · rw [List.getElem?_append_left (by simpa using h), Nat.div_eq_of_lt h, Nat.mod_eq_of_lt h]
      simp [h]
    · rw [List.getElem?_append_right (by simp; omega), Vector.length_toList, ih (ctr + 1) (i - 64) (by omega),
        show ctr + 1 + (i - 64) / 64 = ctr + i / 64 by omega, show (i - 64) % 64 = i % 64 by omega]

/-- The joined data blocks, cut to the length, are `DATA_KS` (R152). -/
theorem take_blocksFrom (ks : Keystream) (key : Vector Byte 32) (nonce : Vector Byte 12) (len : Nat) :
    (blocksFrom ks key nonce 1 (dataBlocks len)).take len = dataKeystream ks key nonce len := by
  have hlen : len ≤ 64 * dataBlocks len := by simp only [dataBlocks]; omega
  apply List.ext_getElem?
  intro i
  by_cases hi : i < len
  · rw [List.getElem?_take_of_lt hi, getElem?_blocksFrom _ _ _ _ _ _ (by omega)]
    simp [dataKeystream, keystreamByte, hi]
  · rw [List.getElem?_eq_none (by simp; omega), List.getElem?_eq_none (by simp [dataKeystream]; omega)]

end Sys2Proof.Machine
end

