-- ==== Sys2Proof/Laws/Exec.lean ====
section
/-! SUPPORT. Laws/Exec.lean: for each command, every state its completion can answer (the inversion lemma that frames
and invariants cite), and what one step can do. -/

namespace Sys2Proof.Machine

theorem execPInit_cases {s t : State} (h : execPInit s = .next t) :
    (s.pkey.complete = true
        ∧ t = { s with unit := initUnit s.pkeyBytes.toList, pstate := .active }.consumePkey.finish)
      ∨ (s.pkey.complete = false ∧ t = s.consumePkey.finishError .invalidKeyLength) := by
  unfold execPInit at h
  split at h
  · rename_i hc
    exact .inl ⟨hc, by simpa using h.symm⟩
  · rename_i hc
    exact .inr ⟨by simpa using hc, by simpa using h.symm⟩

theorem execPUpdate_cases {s t : State} (h : execPUpdate s = .next t) :
    (s.pstate ≠ .active ∧ t = s.finishError .sequence)
      ∨ (s.pstate = .active ∧ s.srcRangeOk = false ∧ t = s.finishError .invalidArgument)
      ∨ (s.pstate = .active ∧ s.srcRangeOk = true ∧ t = { s with unit := absorb s.unit s.srcBytes }.finish) := by
  unfold execPUpdate at h
  split at h
  · rename_i hp
    exact .inl ⟨hp, by simpa using h.symm⟩
  · rename_i hp
    have hp : s.pstate = .active := by simpa using hp
    split at h
    · rename_i hr
      exact .inr (.inl ⟨hp, by simpa using hr, by simpa using h.symm⟩)
    · rename_i hr
      exact .inr (.inr ⟨hp, by simpa using hr, by simpa using h.symm⟩)

theorem execPFinal_cases {s t : State} (h : execPFinal s = .next t) :
    (s.pstate ≠ .active ∧ t = s.finishError .sequence)
      ∨ (s.pstate = .active
        ∧ t = { s with
            tag := wordsOfBytes 4 (finalTag s.unit), tagv := true, unit := .zero, pstate := .finalized }.finish) := by
  unfold execPFinal at h
  split at h
  · rename_i hp
    exact .inl ⟨hp, by simpa using h.symm⟩
  · rename_i hp
    exact .inr ⟨by simpa using hp, by simpa using h.symm⟩

theorem execPVerify_cases {s t : State} (h : execPVerify s = .next t) :
    (s.tagv = false ∧ t = s.consumeReftag.finishError .sequence)
      ∨ (s.tagv = true ∧ s.reftag.complete = false ∧ t = s.consumeReftag.finishError .invalidArgument)
      ∨ (s.tagv = true ∧ s.reftag.complete = true
        ∧ t = { s with tagMatch := ctEq s.tagBytes.toList s.reftagBytes.toList }.consumeReftag.finish) := by
  unfold execPVerify at h
  split at h
  · rename_i hv
    exact .inl ⟨by simpa using hv, by simpa using h.symm⟩
  · rename_i hv
    have hv : s.tagv = true := by simpa using hv
    split at h
    · rename_i hr
      exact .inr (.inl ⟨hv, by simpa using hr, by simpa using h.symm⟩)
    · rename_i hr
      exact .inr (.inr ⟨hv, by simpa using hr, by simpa using h.symm⟩)

theorem execWipe_cases {zm : Bool} {s t : State} (h : execWipe zm s = .next t) :
    (zm = false ∧ t = s.wipeRegisters.finish) ∨ (zm = true ∧ t = s.wipeRegisters.wipeMbuf.finish) := by
  cases zm <;> simpa [execWipe] using h.symm

/-- The states A_ENCRYPT's port-failure label answers. -/
abbrev State.encryptFailed (s : State) (p : Port) : State :=
  { ({ s with port := p } : State).zeroDst with
    tag := zeroTag, tagv := false }.aeadExitEncrypt.finishError .underlyingPrimitiveFailure

/-- The state A_ENCRYPT's success answers, for ciphertext `ct` and counter-0 block `b0`. -/
abbrev State.encrypted (s : State) (p : Port) (b0 : Vector Byte 64) (ct : Bytes) : State :=
  { ({ s with port := p } : State).memWrite s.dstOff.toNat ct with
    tag := wordsOfBytes 4 (aeadTag b0 s.aadBytes ct), tagv := true }.aeadExitEncrypt.finish

theorem encryptBody_cases {ks : Keystream} {s t : State} (h : encryptBody ks s = .next t) :
    (∃ p, t = s.encryptFailed p)
      ∨ (∃ p b0 ct, ct.length ≤ s.srcLen.toNat ∧ t = s.encrypted p b0 ct) := by
  unfold encryptBody at h
  split at h
  · exact .inl ⟨_, (Host.Outcome.next.inj h).symm⟩
  · split at h
    · exact .inl ⟨_, (Host.Outcome.next.inj h).symm⟩
    · refine .inr ⟨_, _, _, ?_, (Host.Outcome.next.inj h).symm⟩
      simp [State.srcBytes]

theorem encryptWith_cases {ks : Keystream} {s t : State} (h : encryptWith ks s = .next t) :
    (s.pstate = .active ∧ t = s.consumeKeyNonce.finishError .sequence)
      ∨ (s.pstate ≠ .active ∧ s.aeadArgs false = false ∧ t = s.consumeKeyNonce.finishError .invalidArgument)
      ∨ (s.pstate ≠ .active ∧ s.aeadArgs false = true ∧ ((∃ p, t = s.encryptFailed p)
        ∨ (∃ p b0 ct, ct.length ≤ s.srcLen.toNat ∧ t = s.encrypted p b0 ct))) := by
  unfold encryptWith at h
  split at h
  · rename_i hp
    exact .inl ⟨hp, by simpa using h.symm⟩
  · rename_i hp
    split at h
    · rename_i ha
      exact .inr (.inl ⟨hp, by simpa using ha, by simpa using h.symm⟩)
    · rename_i ha
      exact .inr (.inr ⟨hp, by simpa using ha, encryptBody_cases h⟩)

/-- A_DECRYPT's state once its checks passed: the port after its requests, TAG cleared. -/
abbrev State.decrypting (s : State) (p : Port) : State := { s with port := p, tag := zeroTag, tagv := false }

/-- The states A_DECRYPT's two failures past the checks answer. -/
abbrev State.decryptFailed (s : State) (p : Port) (e : ErrCode) : State :=
  { (s.decrypting p).zeroDst with tagMatch := false }.aeadExitDecrypt.finishError e

/-- The state A_DECRYPT's success answers, for plaintext `pt`. -/
abbrev State.decrypted (s : State) (p : Port) (pt : Bytes) : State :=
  { (s.decrypting p).memWrite s.dstOff.toNat pt with tagMatch := true }.aeadExitDecrypt.finish

theorem decryptBody_cases {ks : Keystream} {s t : State} (h : decryptBody ks s = .next t) :
    (∃ p, t = s.decryptFailed p .underlyingPrimitiveFailure)
      ∨ (∃ p, t = s.decryptFailed p .authenticationFailure)
      ∨ (∃ p pt, pt.length ≤ s.srcLen.toNat ∧ t = s.decrypted p pt) := by
  unfold decryptBody at h
  split at h
  · exact .inl ⟨_, (Host.Outcome.next.inj h).symm⟩
  · split at h
    · unfold decryptData at h
      split at h
      · exact .inl ⟨_, (Host.Outcome.next.inj h).symm⟩
      · refine .inr (.inr ⟨_, _, ?_, (Host.Outcome.next.inj h).symm⟩)
        simp [State.srcBytes]
    · exact .inr (.inl ⟨_, (Host.Outcome.next.inj h).symm⟩)

theorem decryptWith_cases {ks : Keystream} {s t : State} (h : decryptWith ks s = .next t) :
    (s.pstate = .active ∧ t = s.consumeKeyNonceReftag.finishError .sequence)
      ∨ (s.pstate ≠ .active ∧ s.aeadArgs true = false ∧ t = s.consumeKeyNonceReftag.finishError .invalidArgument)
      ∨ (s.pstate ≠ .active ∧ s.aeadArgs true = true
        ∧ ((∃ p, t = s.decryptFailed p .underlyingPrimitiveFailure)
          ∨ (∃ p, t = s.decryptFailed p .authenticationFailure)
          ∨ (∃ p pt, pt.length ≤ s.srcLen.toNat ∧ t = s.decrypted p pt))) := by
  unfold decryptWith at h
  split at h
  · rename_i hp
    exact .inl ⟨hp, by simpa using h.symm⟩
  · rename_i hp
    split at h
    · rename_i ha
      exact .inr (.inl ⟨hp, by simpa using ha, by simpa using h.symm⟩)
    · rename_i ha
      exact .inr (.inr ⟨hp, by simpa using ha, decryptBody_cases h⟩)

/-! ## The host's side of a step -/

/-- Every mapped register lies in the register region (R60, R63). -/
theorem Reg.offset_lt (r : Reg) : r.offset < Config.registerBytes := by
  cases r <;> simp only [Reg.offset, Config.registerBytes] <;> omega

/-- A mapped offset names its register (R63). -/
theorem Reg.regAt_offset (r : Reg) : regAt r.offset = some r := by
  cases r with
  | key i => revert i; decide
  | nonce i => revert i; decide
  | pkey i => revert i; decide
  | tag i => revert i; decide
  | reftag i => revert i; decide
  | _ => rfl

/-- What a host transaction can do to the state: nothing, one register write, a refusal, or a write to MBUF. -/
theorem access_cases (s : State) (a : HostAccess) :
    (s.access a).1 = s
      ∨ (∃ v r, s.busy = false ∧ (s.access a).1 = s.writeReg v r)
      ∨ (∃ v, (s.access a).1 = s.writeReg v .irqEn)
      ∨ (∃ v, (s.access a).1 = s.writeReg v .irqStat)
      ∨ (s.busy = true ∧ (s.access a).1 = s.refuseWrite)
      ∨ (∃ off x, s.busy = false ∧ off + x.length ≤ s.mbufBytes ∧ (s.access a).1 = s.memWrite off x) := by
  unfold State.access
  split
  · rename_i hl
    cases a with
    | read w off => exact .inl rfl
    | write w off v =>
      simp only [State.busWrite]
      split
      · rename_i hb
        simp only [State.writeBusy]
        split
        · exact .inr (.inr (.inl ⟨v, rfl⟩))
        · exact .inr (.inr (.inr (.inl ⟨v, rfl⟩)))
        · exact .inr (.inr (.inr (.inr (.inl ⟨hb, rfl⟩))))
      · rename_i hb
        have hb : s.busy = false := by simpa using hb
        simp only [State.writeIdle]
        split
        · split
          · exact .inr (.inl ⟨v, _, hb, rfl⟩)
          · exact .inl rfl
        · rename_i hoff
          refine .inr (.inr (.inr (.inr (.inr ⟨_, _, hb, ?_, rfl⟩))))
          have hl : s.legalAccess w off = true := hl
          rw [State.legalAccess, if_neg hoff, Bool.and_eq_true, decide_eq_true_eq, State.windowBytes] at hl
          obtain ⟨-, hl⟩ := hl
          simp only [length_leBytes]
          omega
  · exact .inl rfl

theorem hostAccess_cases {a : HostAccess} {s t : State} (h : hostAccess a s = .next t) :
    a.off < s.windowBytes ∧ t = { (s.access a).1 with responses := s.responses ++ [(s.access a).2] } := by
  unfold hostAccess at h
  split at h
  · rename_i ho
    exact ⟨ho, (Host.Outcome.next.inj h).symm⟩
  · cases h

/-- What the engine's turn can answer. -/
theorem engineTurn_cases {s t : State} (h : engineTurn s = .next t) :
    (s.busy = false ∧ t = s)
      ∨ (s.busy = true ∧ (∃ e, decode s.pend = .error e) ∧ t = s.finishError .illegalCmd)
      ∨ (s.busy = true ∧ ∃ i, decode s.pend = .ok i ∧ exec i s = .next t) := by
  unfold engineTurn at h
  split at h
  · rename_i hb
    unfold completion at h
    split at h
    · rename_i i hi
      exact .inr (.inr ⟨hb, i, hi, h⟩)
    · rename_i e he
      exact .inr (.inl ⟨hb, ⟨e, he⟩, by simpa using h.symm⟩)
  · rename_i hb
    exact .inl ⟨by simpa using hb, (Host.Outcome.next.inj h).symm⟩

end Sys2Proof.Machine
end

