-- ==== Sys2Proof/Laws/PerInstr.lean ====
section
/-! SUPPORT. Laws/PerInstr.lean: per-instruction families (LAWS.json): facts about a command as syntax, one lemma for
each constructor. -/

namespace Sys2Proof.Laws.Encoded

/-- The command's word matches the opcode table's row of its own name and no other, and the fields read back from the
word are well formed (spec/30_encoding.md R92 to R94). -/
def Statement (i : Instr) : Prop :=
  (matchingRows (encode i)).map (·.mnemonic) = [i.mnemonic] ∧ (Cmd32.ofWord (encode i)).wellFormed = true

theorem pInit : Statement .pInit := ⟨by decide, by decide⟩
theorem pUpdate : Statement .pUpdate := ⟨by decide, by decide⟩
theorem pFinal : Statement .pFinal := ⟨by decide, by decide⟩
theorem pVerify : Statement .pVerify := ⟨by decide, by decide⟩
theorem aEncrypt : Statement .aEncrypt := ⟨by decide, by decide⟩
theorem aDecrypt : Statement .aDecrypt := ⟨by decide, by decide⟩
theorem wipe (zm : Bool) : Statement (.wipe zm) := by cases zm <;> exact ⟨by decide, by decide⟩

end Sys2Proof.Laws.Encoded
end

