-- ==== Sys2Proof/Machine/Script.lean ====
section
/-! DEFINITION. Script.lean: the host-script notation of spec/30_encoding.md R96 to R99: each line and each
pseudo-instruction as the events it stands for (log 18). A script runs as the event list of a state. -/

namespace Sys2Proof.Machine.Script

/-- A command as it is written (R96). -/
def name (m : Instr) : String := if m = .wipe true then "WIPE.ZM" else m.mnemonic

/-- `wr32 OFF, VAL` (R97). -/
def wr32 (off : Nat) (v : Word) : Event := .host (.write .w32 off v)

/-- `wr16 OFF, VAL` (R97). -/
def wr16 (off : Nat) (v : Word) : Event := .host (.write .w16 off v)

/-- `wr8 OFF, VAL` (R97). -/
def wr8 (off : Nat) (v : Word) : Event := .host (.write .w8 off v)

/-- `rd32 OFF` (R97). -/
def rd32 (off : Nat) : Event := .host (.read .w32 off)

/-- `MBUF+o` (R97). -/
def mbufAt (o : Nat) : Nat := Config.registerBytes + o

/-- `wait` (R97): the engine's completion step, then the read of STATUS that finds BUSY = 0. -/
def wait : List Event := [.engine, rd32 Reg.status.offset]

/-- `cmd M` (R98). -/
def cmd (m : Instr) : List Event := [wr32 Reg.cmd.offset (encode m)]

/-- `run M` (R98). -/
def run (m : Instr) : List Event := cmd m ++ wait

/-- Word writes of a byte string from a window offset on; a last short word is padded with zero bytes. -/
def ldWords (off n : Nat) (x : Bytes) : List Event :=
  (List.range n).map fun i => wr32 (off + 4 * i) (BitVec.ofNat 32 (leInt (slice x (4 * i) (4 * i + 4))))

/-- `ldkey k` (R98). -/
def ldkey (k : Bytes) : List Event := ldWords (Reg.key 0).offset 8 k

/-- `ldnonce n` (R98). -/
def ldnonce (n : Bytes) : List Event := ldWords (Reg.nonce 0).offset 3 n

/-- `ldpkey k` (R98). -/
def ldpkey (k : Bytes) : List Event := ldWords (Reg.pkey 0).offset 8 k

/-- `ldref t` (R98). -/
def ldref (t : Bytes) : List Event := ldWords (Reg.reftag 0).offset 4 t

/-- `ldbuf o, x` (R98). -/
def ldbuf (o : Nat) (x : Bytes) : List Event := ldWords (mbufAt o) ((x.length + 3) / 4) x

/-- `rdtag` (R98). -/
def rdtag : List Event := (List.range 4).map fun i => rd32 ((Reg.tag 0).offset + 4 * i)

/-- `p.update o, n` (R98). -/
def update (o n : Word) : List Event := [wr32 Reg.srcOff.offset o, wr32 Reg.srcLen.offset n] ++ run .pUpdate

/-- `aead o_src, n, o_aad, n_aad, o_dst, M` (R98). -/
def aead (oSrc n oAad nAad oDst : Word) (m : Instr) : List Event :=
  [wr32 Reg.srcOff.offset oSrc, wr32 Reg.srcLen.offset n, wr32 Reg.aadOff.offset oAad, wr32 Reg.aadLen.offset nAad,
    wr32 Reg.dstOff.offset oDst] ++ run m

/-- Word reads of `n` MBUF bytes from a word-aligned offset. -/
def rdbuf (o n : Nat) : List Event := (List.range ((n + 3) / 4)).map fun i => rd32 (mbufAt (o + 4 * i))

/-- `aead_encrypt(plaintext, aad?, key32, nonce12)` (R99), with MBUF offsets for the three ranges. -/
def aeadEncrypt (oSrc oAad oDst : Word) (pt aad key nonce : Bytes) : List Event :=
  ldkey key ++ ldnonce nonce ++ ldbuf oSrc.toNat pt ++ ldbuf oAad.toNat aad
    ++ aead oSrc (BitVec.ofNat 32 pt.length) oAad (BitVec.ofNat 32 aad.length) oDst .aEncrypt
    ++ rdtag ++ rdbuf oDst.toNat pt.length

/-- `aead_decrypt(ciphertext, tag16, aad?, key32, nonce12)` (R99): the last event of `run` reads STATUS.ERRCODE. -/
def aeadDecrypt (oSrc oAad oDst : Word) (ct tag aad key nonce : Bytes) : List Event :=
  ldkey key ++ ldnonce nonce ++ ldref tag ++ ldbuf oSrc.toNat ct ++ ldbuf oAad.toNat aad
    ++ aead oSrc (BitVec.ofNat 32 ct.length) oAad (BitVec.ofNat 32 aad.length) oDst .aDecrypt
    ++ rdbuf oDst.toNat ct.length

end Sys2Proof.Machine.Script
end

