-- ==== Sys2Proof/Tests/Slice0.lean ====
section
/-! SUPPORT. Slice0.lean: small tests, and for every statement with hypotheses a concrete state and operands that meet
them. Expected values are the spec's: the words of 30_encoding.md R93 and the vectors of 95_test_vectors.md. -/

namespace Sys2Proof.Tests

set_option Elab.async false

open Sys2Proof Sys2Proof.Machine

/-! ## Helpers -/

/-- The result is a next state and `p` holds of it. -/
def nextIs (r : Result) (p : State → Bool) : Bool :=
  match r with
  | .next s => p s
  | .fault _ => false
  | .refused _ => false

/-- A complete input set. -/
def full {n : Nat} (w : Vector Word n) : InputSet n := { words := w, valid := BitVec.allOnes n }

/-- V1's key as PKEY words (95_test_vectors.md section 2.2). -/
def v1Key : Vector Word 8 :=
  #v[0x78BED685#32, 0x336D5557#32, 0xFE52447F#32, 0xA806D542#32, 0x8A800301#32, 0xFDB20DFB#32, 0xAFF6BF4A#32,
    0x1BF54941#32]

/-- V1's tag words (section 2.1). -/
def v1Tag : Vector Word 4 := #v[0xC11D06A8#32, 0xC6365130#32, 0xAF8B2BC2#32, 0xA927010C#32]

/-- V1's message, "Cryptographic Forum Research Group". -/
def v1Message : Bytes :=
  [0x43#8, 0x72#8, 0x79#8, 0x70#8, 0x74#8, 0x6f#8, 0x67#8, 0x72#8, 0x61#8, 0x70#8, 0x68#8, 0x69#8, 0x63#8, 0x20#8,
    0x46#8, 0x6f#8, 0x72#8, 0x75#8, 0x6d#8, 0x20#8, 0x52#8, 0x65#8, 0x73#8, 0x65#8, 0x61#8, 0x72#8, 0x63#8, 0x68#8,
    0x20#8, 0x47#8, 0x72#8, 0x6f#8, 0x75#8, 0x70#8]

/-- PKEY holds V1's key. -/
def pkeyLoaded : State := { State.reset with pkey := full v1Key }

/-- A stream keyed with V1's key, V1's message in MBUF and named as the source range. -/
def streaming : State :=
  { State.reset with
    pstate := .active, unit := initUnit (bytesOfWords 32 v1Key).toList, srcLen := 34#32,
    mbuf := Memory.write [] 0 v1Message }

/-- The state of section 2.4 before its first row, with V1's tag as the received one. -/
def tagged : State := { State.reset with pstate := .finalized, tagv := true, tag := v1Tag, reftag := full v1Tag }

/-- The AEAD inputs complete, one source byte in place, and a port that answers three requests. -/
def sealable : State :=
  { State.reset with
    key := full (Vector.replicate 8 0#32), nonce := full (Vector.replicate 3 0#32),
    reftag := full (Vector.replicate 4 0#32), srcLen := 1#32, mbuf := [(0, 0x61#8)],
    port := { fails := [false, false, false], drawn := 0, log := [] } }

/-- A busy engine with this word pending. -/
def busyWith (w : Word) : State := { State.reset with busy := true, pend := w }

/-! ## WellFormed: an ill-formed term for each check -/

theorem test_wf_unassigned_op : Cmd32.wellFormed { op := 0x05#8, zm := false, rsv := 0#23 } = false := by decide
theorem test_wf_reserved_bit : Cmd32.wellFormed { op := 0x1F#8, zm := false, rsv := 1#23 } = false := by decide
theorem test_wf_zm_on_another_op : Cmd32.wellFormed { op := 0x01#8, zm := true, rsv := 0#23 } = false := by decide
theorem test_wf_wipe_zm : Cmd32.wellFormed { op := 0x1F#8, zm := true, rsv := 0#23 } = true := by decide

/-! ## Decode: the words of R93 and R94, written out -/

theorem test_decode_pInit : decode 0b00000000000000000000000000000001#32 = .ok .pInit := by rfl
theorem test_decode_pUpdate : decode 0b00000000000000000000000000000010#32 = .ok .pUpdate := by rfl
theorem test_decode_pFinal : decode 0b00000000000000000000000000000011#32 = .ok .pFinal := by rfl
theorem test_decode_pVerify : decode 0b00000000000000000000000000000100#32 = .ok .pVerify := by rfl
theorem test_decode_aEncrypt : decode 0b00000000000000000000000000010000#32 = .ok .aEncrypt := by rfl
theorem test_decode_aDecrypt : decode 0b00000000000000000000000000010001#32 = .ok .aDecrypt := by rfl
theorem test_decode_wipe : decode 0b00000000000000000000000000011111#32 = .ok (.wipe false) := by rfl
theorem test_decode_wipe_zm : decode 0b00000000000000000000000100011111#32 = .ok (.wipe true) := by rfl
theorem test_decode_illegal_op : decode 0x00000005#32 = .error .unassignedOp := by rfl
theorem test_decode_illegal_zero : decode 0x00000000#32 = .error .unassignedOp := by rfl
theorem test_decode_illegal_rsv : decode 0x0000021F#32 = .error .reservedBits := by rfl
theorem test_decode_illegal_zm : decode 0x00000101#32 = .error .zmNotWipe := by rfl
theorem test_decode_table_word : decodeTableWord 32 0x11F = some (.wipe true) := by rfl

/-! ## The commands -/

/-- Section 2.2: LOAD_KEY's limbs and mask words; PKEY consumed. -/
theorem test_pInit_v1 : nextIs (exec .pInit pkeyLoaded) (fun s =>
    s.unit.r == { l0 := 0x0bed685#28, l1 := 0x3555502#28, l2 := 0x047c036#28, l3 := 0x1003949#28, l4 := 0x00806d5#28 }
      && s.unit.s == #v[0x8a800301#32, 0xfdb20dfb#32, 0xaff6bf4a#32, 0x1bf54941#32]
      && s.statusWord == 0x10#32 && s.validWord == 0#32) = true := by decide +kernel

/-- Section 2.4 row 12: PKEYV = 0x01. -/
theorem test_pInit_incomplete : nextIs (exec .pInit { State.reset with pkey := { words := v1Key, valid := 0x01#8 } })
    (fun s => s.statusWord == 0x302#32 && s.validWord == 0#32 && s.pkey.words == Vector.replicate 8 0#32) = true := by
  decide +kernel

/-- Section 2.2: h after block 1; leftover 2. -/
theorem test_pUpdate_v1 : nextIs (exec .pUpdate streaming) (fun s =>
    s.unit.h == { l0 := 0x04b30de#28, l1 := 0x3ed3a8d#28, l2 := 0x3fa7ccc#28, l3 := 0x08ec0cd#28, l4 := 0x2d8adaf#28 }
      && s.unit.leftover == 2#4 && s.unit.buf.toList == [0x75#8, 0x70#8] ++ zeros 14) = true := by decide +kernel

/-- Section 2.4 row 9: no 32-bit wrap. -/
theorem test_pUpdate_no_wrap :
    nextIs (exec .pUpdate { streaming with srcOff := 0xFFFFFFFF#32, srcLen := 2#32, tagv := true })
      (fun s => s.statusWord == 0x21A#32) = true := by decide +kernel

/-- Section 2.2: the tag of V1, STATUS 0x28. -/
theorem test_pFinal_v1 :
    nextIs (exec .pFinal { streaming with unit := absorb streaming.unit v1Message })
      (fun s => s.tag == v1Tag && s.statusWord == 0x28#32 && s.unit == .zero) = true := by decide +kernel

/-- V7: the accumulator lies in [p, 2^130), the mask select subtracts p. -/
theorem test_pFinal_v7 :
    polyOneshot (0x02#8 :: zeros 31) (List.replicate 16 0xff#8) = 0x03#8 :: zeros 15 := by decide +kernel

/-- Section 2.4 rows 1 and 2. -/
theorem test_pVerify_match : nextIs (exec .pVerify tagged) (fun s => s.statusWord == 0x2C#32) = true := by
  decide +kernel
theorem test_pVerify_mismatch : nextIs (exec .pVerify { tagged with reftag := full (v1Tag.set 3 0xAA27010C#32) })
    (fun s => s.statusWord == 0x28#32 && s.validWord == 0#32) = true := by decide +kernel

/-- The one-time key of section 1.1 as a number of 32 bytes, the rest of the block zero (no data byte uses it). -/
def exampleKs : Keystream := fun _ _ _ => Vector.ofFn fun i =>
  (leBytes 0xc70d778bccef36a81aed8da0b819d2bd28bd8653e56a5d40903df1a0ade0b876 32).getD i.val 0#8

/-- Section 1.1: key and nonce zero, plaintext and associated data empty. -/
theorem test_aEncrypt_example : nextIs (encryptWith exampleKs { sealable with srcLen := 0#32 })
    (fun s => s.tag == #v[0xC972B94E#32, 0x1B3AFBA8#32, 0xD3B42B38#32, 0xD1FA5F6F#32] && s.statusWord == 0x8#32
      && s.port.log.length == 1) = true := by decide +kernel

/-- Section 5.6: a port failure at counter 1 zeroes the destination and gives ERRCODE 6. -/
theorem test_aEncrypt_port_failure :
    nextIs (encryptWith exampleKs { sealable with port := { fails := [false, true], drawn := 0, log := [] } })
      (fun s => s.statusWord == 0x602#32 && Memory.get? s.mbuf 0 == some 0#8 && s.port.log.length == 2) = true := by
  decide +kernel

/-- Section 1.1: the same tag opens; the tag with its last byte incremented is an authentication failure. -/
theorem test_aDecrypt_example :
    nextIs (decryptWith exampleKs
      { sealable with
        srcLen := 0#32, reftag := full #v[0xC972B94E#32, 0x1B3AFBA8#32, 0xD3B42B38#32, 0xD1FA5F6F#32] })
      (fun s => s.statusWord == 0x4#32 && s.validWord == 0#32) = true := by decide +kernel
theorem test_aDecrypt_forged :
    nextIs (decryptWith exampleKs
      { sealable with
        srcLen := 0#32, reftag := full #v[0xC972B94E#32, 0x1B3AFBA8#32, 0xD3B42B38#32, 0xD2FA5F6F#32] })
      (fun s => s.statusWord == 0x502#32 && s.port.log.length == 1) = true := by decide +kernel

/-- 42_maintenance.md R190's example, and ZM. -/
theorem test_wipe : nextIs (exec (.wipe false) tagged) (fun s => s.statusWord == 0#32 && s.tag == zeroTag) = true := by
  decide +kernel
theorem test_wipe_zm : nextIs (exec (.wipe true) { sealable with mbufBytes := 64 })
    (fun s => s.mbuf == Memory.cellsFrom 0 (zeros 64)) = true := by decide +kernel

/-- Section 5.5: an illegal word completes with ERRCODE 1. -/
theorem test_illegal_word : nextIs (engineTurn (busyWith 0x0000021F#32))
    (fun s => s.statusWord == 0x102#32 && s.irqStat.toWord == 0x3#32) = true := by decide +kernel

/-! ## The host window -/

/-- Section 5.5: a refused write while busy sets WERR only. -/
theorem test_refused_write : nextIs (hostAccess (.write .w32 0x018 5#32) (busyWith 0x1F#32))
    (fun s => s.srcLen == 0#32 && s.irqStat.toWord == 0x4#32 && s.responses == [.writeOk]) = true := by decide +kernel

/-- Section 5.5: two bus errors. -/
theorem test_bus_error_width : nextIs (hostAccess (.write .w16 0x004 0#32) State.reset)
    (fun s => s.responses == [.busError 0#32]) = true := by decide +kernel
theorem test_bus_error_unmapped : nextIs (hostAccess (.write .w32 0x030 0#32) State.reset)
    (fun s => s.responses == [.busError 0#32]) = true := by decide +kernel

/-- 20_memory.md R62: bytes lie little-endian. -/
theorem test_mbuf_write : nextIs (hostAccess (.write .w32 0x1100 0x6964614C#32) State.reset)
    (fun s => s.mbuf == [(0x100, 0x4C#8), (0x101, 0x61#8), (0x102, 0x64#8), (0x103, 0x69#8)]) = true := by
  decide +kernel

/-- A command placed by `withFetchWord` on the reset state is the next step's. -/
theorem test_fetch : nextIs (step (State.reset.withFetchWord 32 0x2)) (fun s => s.statusWord == 0x402#32) = true := by
  decide +kernel

/-- 30_encoding.md R98: `run WIPE.ZM`, and 95_test_vectors.md section 5.4's first `ldbuf` word. -/
theorem test_script_run : Script.run (.wipe true)
    = [.host (.write .w32 0x010 0x0000011F#32), .engine, .host (.read .w32 0x004)] := by decide
theorem test_script_ldbuf : Script.ldbuf 0x170 [0x74#8, 0x2E#8] = [.host (.write .w32 0x1170 0x00002E74#32)] := by decide

/-! ## Witnesses: the hypotheses of each statement, met together

One theorem for each statement of Obligations.lean that has hypotheses, named after it; the parts follow its clauses. -/

theorem of_nextIs {r : Result} {p : State → Bool} (h : nextIs r p = true) : ∃ t, r = .next t ∧ p t = true := by
  cases r with
  | next t => exact ⟨t, rfl, h⟩
  | fault f => exact absurd h (by simp [nextIs])
  | refused f => exact absurd h (by simp [nextIs])

theorem next_of {r : Result} (h : nextIs r (fun _ => true) = true) : ∃ t, r = .next t :=
  (of_nextIs h).imp fun _ ht => ht.1

/-- A state every command is run on below. -/
def anyState : State := State.reset

theorem anyState_next (i : Instr) : ∃ t, exec i anyState = .next t := by
  cases i with
  | wipe zm => cases zm <;> exact next_of (by decide +kernel)
  | _ => exact next_of (by decide +kernel)

/-- An engine with an illegal word pending, with a legal one pending, and with an event still to come. -/
theorem witness_busy :
    ((busyWith 0x00000005#32).busy = true ∧ decode (busyWith 0x00000005#32).pend = .error .unassignedOp)
    ∧ ((busyWith 0x00000001#32).busy = true ∧ decode (busyWith 0x00000001#32).pend = .ok .pInit
      ∧ (busyWith 0x00000001#32).events = [])
    ∧ ∃ s : State, s.busy = true ∧ decode s.pend = .ok (.wipe true) ∧ s.events = [.engine] :=
  ⟨⟨rfl, rfl⟩, ⟨rfl, rfl, rfl⟩, { busyWith 0x0000011F#32 with events := [.engine] }, rfl, rfl, rfl⟩

theorem witness_LegalWordsMatchOneRow : decode 0x0000011F#32 = .ok (.wipe true) := rfl

theorem witness_IllegalWordsCompleteWithIllegalCmd :
    State.reset.busy = false ∧ (busyWith 0x0000021F#32).busy = true
      ∧ decode (busyWith 0x0000021F#32).pend = .error .reservedBits := ⟨rfl, rfl, rfl⟩

theorem witness_StepRunsTheDecodedCommand :
    ∃ s : State, s.busy = true ∧ decode s.pend = .ok .pInit ∧ s.events = [.engine] :=
  ⟨{ busyWith 0x00000001#32 with events := [.engine] }, rfl, rfl, rfl⟩

theorem witness_AcceptanceOfACommandWord : State.reset.busy = false ∧ (busyWith 0x1F#32).busy = true := ⟨rfl, rfl⟩

theorem zero_tight : Limbs.zero.Tight := ⟨by decide, by decide, by decide, by decide, by decide⟩

theorem zero_below26 : Limbs.zero.Below26 := ⟨by decide, by decide, by decide, by decide, by decide⟩

/-- The invariant holds of a state with a command pending. -/
theorem busyWith_inv (w : Word) : (busyWith w).Inv where
  mbufCanonical := List.Pairwise.nil
  mbufInside := by intro c hc; exact absurd hc (by simp [busyWith, State.reset])
  mbufLegal := by simp [busyWith, State.reset, Config.mbufBytes]
  busyClear := fun _ => ⟨rfl, rfl, rfl⟩
  errAgrees := by simp [busyWith, State.reset]
  noAllocation := by simp [busyWith, State.reset]
  matchNoError := fun _ => rfl
  tagZero := fun _ => rfl
  keyZero := fun i h _ => by simp [busyWith, State.reset, InputSet.wiped]
  nonceZero := fun i h _ => by simp [busyWith, State.reset, InputSet.wiped]
  pkeyZero := fun i h _ => by simp [busyWith, State.reset, InputSet.wiped]
  reftagZero := fun i h _ => by simp [busyWith, State.reset, InputSet.wiped]
  unitWiped := fun _ => rfl
  hTight := zero_tight
  rBound := zero_below26
  bufTail := fun k h _ => by simp [busyWith, State.reset, PolyUnit.zero]

theorem witness_EveryCompletionIsRecorded : ∃ s : State, s.Inv ∧ s.busy = true :=
  ⟨busyWith 0x2#32, busyWith_inv _, rfl⟩

theorem witness_ErrorCodesOfEachCommand :
    anyState.err = false ∧ anyState.errcode = .noError ∧ ∀ i, ∃ t, exec i anyState = .next t :=
  ⟨rfl, rfl, anyState_next⟩

/-! ### AEAD states -/

/-- `sealable` with a received tag. -/
def withTag (x : Bytes) : State := { sealable with reftag := full (wordsOfBytes 4 x) }

/-- `sealable` with the received tag the right one. -/
def authentic : State := withTag (sealable.expectedTag sealable.srcBytes)

/-- `sealable` with the received tag the complement of the right one. -/
def forged : State := withTag ((sealable.expectedTag sealable.srcBytes).map (~~~ ·))

/-- A state whose port answers these draws next. -/
def withDraws (fails : List Bool) (s : State) : State := { s with port := { fails := fails, drawn := 0, log := [] } }

theorem sealable_passes :
    sealable.pstate ≠ .active ∧ sealable.aeadArgs false = true ∧ sealable.aeadArgs true = true
      ∧ dataBlocks sealable.srcLen.toNat = 1 := by decide +kernel

theorem expectedTag_length (s : State) (ct : Bytes) : (s.expectedTag ct).length = 4 * 4 := by
  simp [State.expectedTag, poly1305]

theorem withTag_expectedTag (x : Bytes) :
    (withTag x).expectedTag (withTag x).srcBytes = sealable.expectedTag sealable.srcBytes := by
  simp only [State.expectedTag, State.oneTimeKeyOf, State.srcBytes, State.aadBytes, State.memRead, State.readByte,
    State.keyBytes, State.nonceBytes, withTag]

theorem withTag_reftagBytes (x : Bytes) (hx : x.length = 4 * 4) : (withTag x).reftagBytes.toList = x := by
  simp only [State.reftagBytes, withTag, full]
  exact toList_bytesOfWords_wordsOfBytes x hx

theorem withDraws_tag (fails : List Bool) (s : State) :
    (withDraws fails s).reftagBytes = s.reftagBytes
      ∧ (withDraws fails s).expectedTag (withDraws fails s).srcBytes = s.expectedTag s.srcBytes := by
  simp only [State.expectedTag, State.oneTimeKeyOf, State.srcBytes, State.aadBytes, State.memRead, State.readByte,
    State.keyBytes, State.nonceBytes, State.reftagBytes, withDraws, and_self]

theorem withTag_passes (fails : List Bool) (x : Bytes) :
    (withDraws fails (withTag x)).pstate ≠ .active ∧ (withDraws fails (withTag x)).aeadArgs true = true
      ∧ (withDraws fails (withTag x)).srcLen = 1#32 := by
  refine ⟨by simp [withDraws, withTag, sealable, State.reset], ?_, rfl⟩
  have := sealable_passes.2.2.1
  simp only [State.aeadArgs, Bool.and_eq_true, Bool.not_true, Bool.false_or] at this ⊢
  exact ⟨⟨⟨⟨⟨⟨this.1.1.1.1.1.1, by simp [withDraws, withTag, full, InputSet.complete]⟩, this.1.1.1.1.2⟩, this.1.1.1.2⟩,
    this.1.1.2⟩, this.1.2⟩, this.2⟩

theorem authentic_tag (fails : List Bool) :
    (withDraws fails authentic).reftagBytes.toList
      = (withDraws fails authentic).expectedTag (withDraws fails authentic).srcBytes := by
  rw [(withDraws_tag fails authentic).1, (withDraws_tag fails authentic).2, authentic, withTag_expectedTag,
    withTag_reftagBytes _ (expectedTag_length _ _)]

theorem complement_ne (x : Bytes) (hx : x.length = 4 * 4) : x.map (~~~ ·) ≠ x := by
  cases x with
  | nil => simp at hx
  | cons b x =>
    have hb : ∀ b : Byte, ~~~b ≠ b := by decide
    simp [hb b]

theorem forged_tag (fails : List Bool) :
    (withDraws fails forged).reftagBytes.toList
      ≠ (withDraws fails forged).expectedTag (withDraws fails forged).srcBytes := by
  rw [(withDraws_tag fails forged).1, (withDraws_tag fails forged).2, forged, withTag_expectedTag,
    withTag_reftagBytes _ (by simp [expectedTag_length])]
  exact complement_ne _ (expectedTag_length _ _)

theorem ok_draws : sealable.port.OkThrough (dataBlocks sealable.srcLen.toNat + 1) := by
  rw [sealable_passes.2.2.2]
  intro j hj
  have : j = 0 ∨ j = 1 := by omega
  rcases this with rfl | rfl <;> rfl

theorem fails_at_zero (s : State) : (withDraws [true] s).port.FirstFailAt 0 :=
  ⟨fun j hj => absurd hj (by omega), rfl⟩

theorem fails_at_one (s : State) : (withDraws [false, true] s).port.FirstFailAt 1 :=
  ⟨fun j hj => by
    obtain rfl : j = 0 := by omega
    rfl, rfl⟩

theorem witness_FirstFailingCheckDecidesTheCode :
    (State.reset.pkey.complete = false ∧ State.reset.pstate ≠ .active ∧ State.reset.tagv = false
      ∧ State.reset.aeadArgs false = false ∧ State.reset.aeadArgs true = false)
    ∧ (streaming.pstate = .active ∧ { streaming with srcOff := 4095#32, srcLen := 2#32 }.srcRangeOk = false)
    ∧ (tagged.tagv = true ∧ { tagged with reftag := .wiped }.reftag.complete = false)
    ∧ (∃ s : State, s.pstate ≠ .active ∧ s.aeadArgs true = true ∧ s.aeadArgs false = true ∧ s.port.FirstFailAt 0)
    ∧ (∃ s : State, s.pstate ≠ .active ∧ s.aeadArgs false = true ∧ 1 ≤ dataBlocks s.srcLen.toNat
      ∧ s.port.FirstFailAt 1)
    ∧ (∃ s : State, s.pstate ≠ .active ∧ s.aeadArgs true = true ∧ s.port.drawAt 0 = false
      ∧ s.reftagBytes.toList ≠ s.expectedTag s.srcBytes)
    ∧ ∃ s : State, s.pstate ≠ .active ∧ s.aeadArgs true = true ∧ s.reftagBytes.toList = s.expectedTag s.srcBytes
      ∧ 1 ≤ dataBlocks s.srcLen.toNat ∧ s.port.FirstFailAt 1 :=
  ⟨by decide +kernel, by decide +kernel, by decide +kernel,
    ⟨withDraws [true] sealable, by decide, sealable_passes.2.2.1, sealable_passes.2.1, fails_at_zero _⟩,
    ⟨withDraws [false, true] sealable, by decide, sealable_passes.2.1, by decide +kernel, fails_at_one _⟩,
    ⟨withDraws [false] forged, (withTag_passes _ _).1, (withTag_passes _ _).2.1, rfl, forged_tag _⟩,
    withDraws [false, true] authentic, (withTag_passes _ _).1, (withTag_passes _ _).2.1, authentic_tag _,
    by rw [show (withDraws [false, true] authentic).srcLen = 1#32 from rfl]; decide, fails_at_one _⟩

/-! ### Datapath and MAC commands -/

/-- The largest limbs within R36's bounds. -/
def largestTight : Limbs := { l0 := 0x3ffffff#28, l1 := 0x7ffffff#28, l2 := 0x3ffffff#28, l3 := 0x3ffffff#28, l4 := 0x3ffffff#28 }

def largestR : Limbs := { l0 := 0x3ffffff#28, l1 := 0x3ffffff#28, l2 := 0x3ffffff#28, l3 := 0x3ffffff#28, l4 := 0x3ffffff#28 }

theorem witness_BlockValueLaw : (List.replicate 16 0xff#8 : Bytes).length = 16 ∧ largestR.Below26 :=
  ⟨rfl, by decide, by decide, by decide, by decide, by decide⟩

theorem witness_FullReduceValueLaw : largestTight.Tight := ⟨by decide, by decide, by decide, by decide, by decide⟩

theorem witness_AbsorbIsIndependentOfChunking :
    { PolyUnit.zero with buf := bufWrite PolyUnit.zero.buf 0 (List.replicate 15 0xff#8), leftover := 15#4 }.TailZero := by
  unfold PolyUnit.TailZero
  decide +kernel

theorem witness_PInitLoadsTheClampedKey : pkeyLoaded.pkey.complete = true ∧ State.reset.pkey.complete = false := by
  decide +kernel

/-- The range clauses at their boundary: a zero length at the largest offset, the last byte of MBUF, one byte past it. -/
theorem witness_PUpdateAbsorbsTheRange :
    (∃ s : State, s.pstate = .active ∧ s.srcLen = 0#32 ∧ s.srcOff = 0xFFFFFFFF#32)
    ∧ (∃ s : State, s.pstate = .active ∧ s.srcLen ≠ 0#32 ∧ s.srcOff.toNat + s.srcLen.toNat = s.mbufBytes)
    ∧ State.reset.pstate ≠ .active
    ∧ ∃ s : State, s.pstate = .active ∧ s.srcLen ≠ 0#32 ∧ s.mbufBytes + 1 = s.srcOff.toNat + s.srcLen.toNat :=
  ⟨⟨{ streaming with srcLen := 0#32, srcOff := 0xFFFFFFFF#32 }, by decide +kernel⟩,
    ⟨{ streaming with srcOff := 4095#32, srcLen := 1#32 }, by decide +kernel⟩, by decide,
    { streaming with srcOff := 4096#32, srcLen := 1#32 }, by decide +kernel⟩

theorem absorbed_nothing : Absorbed (zeros 32) [] (initUnit (zeros 32)) where
  multiplier := by decide +kernel
  rBound := ⟨by decide +kernel, by decide +kernel, by decide +kernel, by decide +kernel, by decide +kernel⟩
  mask := by decide +kernel
  leftover := rfl
  buf := by decide +kernel
  acc := by decide +kernel
  hTight := zero_tight

theorem witness_PFinalOutputsTheTagAndWipes :
    (∃ (k m : Bytes) (s : State), s.pstate = .active ∧ Absorbed k m s.unit) ∧ State.reset.pstate ≠ .active :=
  ⟨⟨zeros 32, [], { streaming with unit := initUnit (zeros 32) }, rfl, absorbed_nothing⟩, by decide⟩

theorem witness_PVerifyComparesAllBytes :
    (tagged.tagv = true ∧ tagged.reftag.complete = true) ∧ State.reset.tagv = false
      ∧ { tagged with reftag := { words := v1Tag, valid := 0x7#4 } }.reftag.complete = false := by decide +kernel

/-- V1 as a stream: P_INIT, the message laid into MBUF, one P_UPDATE of its 34 bytes. -/
theorem witness_StreamedTagIsPoly1305 :
    ∃ s : State, Streamed (bytesOfWords 32 v1Key).toList ([] ++ streaming.srcBytes) s ∧ streaming.srcBytes.length = 34 := by
  obtain ⟨t, ht, hu⟩ := of_nextIs (r := exec .pInit pkeyLoaded)
    (p := fun t => t.unit == streaming.unit && t.pstate == streaming.pstate) (by decide +kernel)
  obtain ⟨u, hupd⟩ := next_of (r := exec .pUpdate streaming) (by decide +kernel)
  simp only [Bool.and_eq_true, beq_iff_eq] at hu
  have hi : Streamed (bytesOfWords 32 v1Key).toList [] t := Streamed.init (s := pkeyLoaded) (by decide +kernel) rfl ht
  have hb : Streamed (bytesOfWords 32 v1Key).toList [] streaming := hi.between hu.1.symm hu.2.symm
  exact ⟨u, hb.update (by decide +kernel) hupd, by
    simp only [State.srcBytes, State.memRead, List.length_map, List.length_range]; rfl⟩

theorem witness_OneShotMacIsPoly1305 : (zeros 32).length = 32 := rfl

/-! ### AEAD commands -/

theorem witness_EncryptSealsThePlaintext :
    sealable.pstate ≠ .active ∧ sealable.aeadArgs false = true
      ∧ sealable.port.OkThrough (dataBlocks sealable.srcLen.toNat + 1) :=
  ⟨sealable_passes.1, sealable_passes.2.1, ok_draws⟩

/-- The first failing counter at both ends of its range, 0 and nb. -/
theorem witness_EncryptPortFailureZeroesTheOutput :
    (∃ s : State, s.pstate ≠ .active ∧ s.aeadArgs false = true ∧ s.port.FirstFailAt 0)
    ∧ ∃ s : State, s.pstate ≠ .active ∧ s.aeadArgs false = true ∧ dataBlocks s.srcLen.toNat = 1
      ∧ s.port.FirstFailAt 1 :=
  ⟨⟨withDraws [true] sealable, by decide, sealable_passes.2.1, fails_at_zero _⟩,
    withDraws [false, true] sealable, by decide, sealable_passes.2.1, by decide +kernel, fails_at_one _⟩

theorem ok_two_draws (s : State) : (withDraws [false, false] s).port.OkThrough (1 + 1) := by
  intro j hj
  have : j = 0 ∨ j = 1 := by omega
  rcases this with rfl | rfl <;> rfl

theorem witness_DecryptOpensAnAuthenticCiphertext :
    ∃ s : State, s.pstate ≠ .active ∧ s.aeadArgs true = true ∧ s.srcLen = 1#32
      ∧ s.port.OkThrough (dataBlocks 1 + 1) ∧ s.reftagBytes.toList = s.expectedTag s.srcBytes :=
  ⟨withDraws [false, false] authentic, (withTag_passes _ _).1, (withTag_passes _ _).2.1, rfl, ok_two_draws _,
    authentic_tag _⟩

theorem witness_DecryptRejectsAForgedCiphertext :
    ∃ s : State, s.pstate ≠ .active ∧ s.aeadArgs true = true ∧ s.port.drawAt 0 = false
      ∧ s.reftagBytes.toList ≠ s.expectedTag s.srcBytes :=
  ⟨withDraws [false] forged, (withTag_passes _ _).1, (withTag_passes _ _).2.1, rfl, forged_tag _⟩

theorem witness_DecryptPortFailureZeroesTheOutput :
    (∃ s : State, s.pstate ≠ .active ∧ s.aeadArgs true = true ∧ s.port.FirstFailAt 0)
    ∧ ∃ s : State, s.pstate ≠ .active ∧ s.aeadArgs true = true ∧ s.srcLen = 1#32 ∧ s.port.FirstFailAt 1
      ∧ s.reftagBytes.toList = s.expectedTag s.srcBytes :=
  ⟨⟨withDraws [true] sealable, by decide, sealable_passes.2.2.1, fails_at_zero _⟩,
    withDraws [false, true] authentic, (withTag_passes _ _).1, (withTag_passes _ _).2.1, rfl, fails_at_one _,
    authentic_tag _⟩

/-- A_DECRYPT's answer past the checks is a next state, whatever the comparison of opaque bytes gives. -/
theorem decrypt_next (fails : List Bool) (x : Bytes) : ∃ t, exec .aDecrypt (withDraws fails (withTag x)) = .next t := by
  have hc := withTag_passes fails x
  simp only [exec, execADecrypt, decryptWith, if_neg hc.1, hc.2.1, Bool.not_true, Bool.false_eq_true, if_false,
    decryptBody]
  split
  · exact ⟨_, rfl⟩
  · split
    · unfold decryptData
      split <;> exact ⟨_, rfl⟩
    · exact ⟨_, rfl⟩

theorem witness_PortRequestOrder :
    (∃ t, exec .aEncrypt sealable = .next t) ∧ sealable.port.OkThrough (dataBlocks sealable.srcLen.toNat + 1)
    ∧ (∃ t, exec .aEncrypt (withDraws [false, true] sealable) = .next t)
    ∧ (∃ t, exec .aDecrypt (withDraws [false] forged) = .next t)
    ∧ (∃ t, exec .aDecrypt (withDraws [false, true] authentic) = .next t)
    ∧ (∃ t, exec .aDecrypt (withDraws [false, false] authentic) = .next t)
    ∧ (streaming.pstate = .active ∧ (∃ t, exec .aEncrypt streaming = .next t) ∧ ∃ t, exec .aDecrypt streaming = .next t)
    ∧ (∃ t, exec .pFinal streaming = .next t) :=
  ⟨next_of (by decide +kernel), ok_draws, next_of (by decide +kernel), decrypt_next _ _, decrypt_next _ _,
    decrypt_next _ _, ⟨rfl, next_of (by decide +kernel), next_of (by decide +kernel)⟩, next_of (by decide +kernel)⟩

theorem witness_AeadCheckFailuresOnlyConsume :
    streaming.pstate = .active ∧ State.reset.pstate ≠ .active ∧ State.reset.aeadArgs false = false
      ∧ State.reset.aeadArgs true = false := by decide +kernel

/-- Sealed in place, then opened in place with the sealed bytes, the tag and the same associated data. -/
theorem witness_DecryptUndoesEncrypt :
    ∃ s t d : State, exec .aEncrypt s = .next t ∧ s.err = false ∧ t.err = false ∧ d.pstate ≠ .active
      ∧ d.aeadArgs true = true ∧ d.port.OkThrough (dataBlocks d.srcLen.toNat + 1) ∧ d.keyBytes = s.keyBytes
      ∧ d.nonceBytes = s.nonceBytes ∧ d.aadBytes = s.aadBytes ∧ d.srcBytes = t.dstBytes ∧ d.reftagBytes = t.tagBytes := by
  obtain ⟨t, ht, hp⟩ := of_nextIs (r := exec .aEncrypt sealable)
    (p := fun t => !t.err && t.dstOff == sealable.srcOff && t.srcLen == sealable.srcLen && t.mbufEpoch == 0)
    (by decide +kernel)
  simp only [Bool.and_eq_true, beq_iff_eq, Bool.not_eq_true'] at hp
  refine ⟨sealable, t, { sealable with mbuf := t.mbuf, reftag := full t.tag }, ht, rfl, hp.1.1.1, sealable_passes.1, ?_,
    ok_draws, rfl, rfl, rfl, ?_, rfl⟩
  · exact sealable_passes.2.2.1
  · simp only [State.srcBytes, State.dstBytes, State.memRead, State.readByte, hp.1.1.2, hp.1.2, hp.2]
    rfl

/-- In place, out of place with a distinct destination, and the two rejected overlaps. -/
theorem witness_InPlaceEqualsOutOfPlace :
    (sealable.pstate ≠ .active
      ∧ overlap sealable.aadOff.toNat sealable.aadLen.toNat sealable.srcOff.toNat sealable.srcLen.toNat = false
      ∧ { sealable with dstOff := 0x10#32 }.aeadArgs false = true
      ∧ { sealable with dstOff := 0x10#32 }.aeadArgs true = true
      ∧ rangeOk sealable.mbufBytes sealable.srcOff.toNat sealable.srcLen.toNat = true
      ∧ rangeOk sealable.mbufBytes sealable.aadOff.toNat sealable.aadLen.toNat = true)
    ∧ (∃ s : State, overlap s.srcOff.toNat s.srcLen.toNat s.dstOff.toNat s.srcLen.toNat = true ∧ s.srcOff ≠ s.dstOff)
    ∧ ∃ s : State, overlap s.aadOff.toNat s.aadLen.toNat s.dstOff.toNat s.srcLen.toNat = true :=
  ⟨by decide +kernel, ⟨{ sealable with srcLen := 2#32, dstOff := 1#32 }, by decide +kernel⟩,
    { sealable with aadLen := 1#32 }, by decide +kernel⟩

/-! ### Frames and rules over all commands -/

theorem witness_NoCommandWritesTheControlRegisters : ∀ i, ∃ t, exec i anyState = .next t := anyState_next

theorem witness_MacCommandFrames :
    (∃ t, exec .pInit anyState = .next t) ∧ (∃ t, exec .pUpdate streaming = .next t)
      ∧ (∃ t, exec .pFinal streaming = .next t) ∧ (∃ t, exec .pVerify tagged = .next t)
      ∧ ∃ t, exec (.wipe false) tagged = .next t :=
  ⟨anyState_next _, next_of (by decide +kernel), next_of (by decide +kernel), next_of (by decide +kernel),
    next_of (by decide +kernel)⟩

theorem witness_AeadCommandFrames :
    (∃ t, exec .aEncrypt sealable = .next t) ∧ (∃ t, exec .aDecrypt (withDraws [false, false] authentic) = .next t)
      ∧ State.reset.aeadArgs false = false ∧ State.reset.aeadArgs true = false ∧ streaming.pstate = .active :=
  ⟨next_of (by decide +kernel), decrypt_next _ _, by decide +kernel,
    by decide +kernel, rfl⟩

/-- For the four statements over every command: a next state, and an illegal word's completion. -/
theorem witness_CommandsConsumeTheirInputSets :
    (∀ i, ∃ t, exec i anyState = .next t)
      ∧ (busyWith 0x5#32).busy = true ∧ decode (busyWith 0x5#32).pend = .error .unassignedOp
      ∧ ∃ t, engineTurn (busyWith 0x5#32) = .next t := ⟨anyState_next, rfl, rfl, next_of (by decide +kernel)⟩

theorem witness_TagValidBitRule :
    (∃ t, exec .pFinal streaming = .next t) ∧ (∃ t, exec .aEncrypt sealable = .next t)
      ∧ sealable.aeadArgs false = true ∧ sealable.aeadArgs true = true
      ∧ ∃ t, exec .aDecrypt (withDraws [false, false] authentic) = .next t :=
  ⟨next_of (by decide +kernel), next_of (by decide +kernel), sealable_passes.2.1, sealable_passes.2.2.1,
    decrypt_next _ _⟩

theorem witness_PstateTransitions :
    (pkeyLoaded.pkey.complete = true ∧ ∃ t, exec .pInit pkeyLoaded = .next t)
      ∧ (anyState.pkey.complete = false ∧ anyState.pstate ≠ .active ∧ ∀ i, ∃ t, exec i anyState = .next t)
      ∧ (streaming.pstate = .active ∧ ∃ t, exec .pFinal streaming = .next t) :=
  ⟨⟨by decide +kernel, next_of (by decide +kernel)⟩, ⟨by decide +kernel, by decide, anyState_next⟩, rfl,
    next_of (by decide +kernel)⟩

theorem witness_OtherCommandsIgnoreThePort : Instr.pInit ≠ .aEncrypt ∧ Instr.pInit ≠ .aDecrypt
    ∧ ∃ t, exec .pInit anyState = .next t := ⟨by decide, by decide, anyState_next _⟩

/-! ### The host window -/

/-- The ends of the unmapped ranges, and their mapped neighbours. -/
theorem witness_RegisterMapIsExact :
    [0x030, 0x03C, 0x06C, 0x07C, 0x0C0, 0xFFC].all (fun o => o % 4 == 0 && o < 0x1000 && (regAt o).isNone) = true
      ∧ [0x02C, 0x040, 0x068, 0x080, 0x0BC].all (fun o => (regAt o).isSome) = true := by decide +kernel

/-- The last byte of the window, and the two ends of the register region. -/
theorem witness_LegalHostAccesses :
    0x1FFF < State.reset.windowBytes ∧ State.reset.mbufBytes % 4 = 0 ∧ State.reset.legalAccess .w8 0x1FFF = true
      ∧ State.reset.legalAccess .w32 0x1FFC = true ∧ State.reset.legalAccess .w16 0x1FFF = false
      ∧ State.reset.legalAccess .w32 0x000 = true ∧ State.reset.legalAccess .w32 0xFFC = false := by decide +kernel

theorem witness_IllegalAccessIsBusError :
    (HostAccess.read .w8 0x004).off < State.reset.windowBytes ∧ State.reset.legalAccess .w8 0x004 = false := by
  decide +kernel

theorem witness_ReadsChangeNothing : ∃ t, hostAccess (.read .w32 0x004) State.reset = .next t :=
  next_of (by decide +kernel)

theorem witness_WritesWhileBusyAreRefused :
    (busyWith 0x1F#32).busy = true
      ∧ [0x008, 0x00C, 0x010, 0x1FFC].all
        (fun o => o < (busyWith 0x1F#32).windowBytes && (busyWith 0x1F#32).legalAccess .w32 o) = true := by
  decide +kernel

theorem witness_ReadsWhileBusyHideResults :
    (busyWith 0x1F#32).Inv ∧ (busyWith 0x1F#32).busy = true
      ∧ [0x000, 0x004, 0x0A0, 0x0AC, 0x1000, 0x1FFC].all
        (fun o => o < (busyWith 0x1F#32).windowBytes && (busyWith 0x1F#32).legalAccess .w32 o) = true :=
  ⟨busyWith_inv _, rfl, by decide +kernel⟩

/-- For the statements about accesses of an idle engine. -/
theorem witness_idle : State.reset.busy = false ∧ ∃ t, exec .pUpdate State.reset = .next t :=
  ⟨rfl, next_of (by decide +kernel)⟩

theorem witness_ReadOnlyWriteOnlyAndReservedBits : State.reset.busy = false := rfl

theorem witness_OperandRegistersReadBack : State.reset.busy = false ∧ ∀ i, ∃ t, exec i anyState = .next t :=
  ⟨rfl, anyState_next⟩

theorem witness_InputWordsAndTheirValidBits : State.reset.busy = false := rfl

/-- Every width at the last place it fits. -/
theorem witness_MbufBusAccessIsLittleEndian :
    State.reset.busy = false ∧ State.reset.legalAccess .w8 (0x1000 + 4095) = true
      ∧ State.reset.legalAccess .w16 (0x1000 + 4094) = true ∧ State.reset.legalAccess .w32 (0x1000 + 4092) = true := by
  decide +kernel

/-- An idle engine with a tag to read, and 95_test_vectors.md section 2.1's first and last tag word on the bus. -/
theorem witness_IdStatusAndSizeFields : tagged.busy = false := rfl
theorem test_read_tag :
    (tagged.access (.read .w32 0x0A0)).2 = .readOk 0xC11D06A8#32
      ∧ (tagged.access (.read .w32 0x0AC)).2 = .readOk 0xA927010C#32 := by decide +kernel

theorem witness_ResetAtAnyTime : ∃ s : State, s.busy = true ∧ s.events = [.reset] :=
  ⟨{ busyWith 0x10#32 with events := [.reset] }, rfl, rfl⟩

/-! ### Rules over every step -/

theorem witness_StepKeepsTheInvariant : ∃ s t : State, s.Inv ∧ step s = .next t :=
  ⟨busyWith 0x1F#32, (next_of (r := step (busyWith 0x1F#32)) (by decide +kernel)).imp fun _ h => ⟨busyWith_inv _, h⟩⟩

theorem witness_BusyEngineCompletes :
    ∃ s t : State, s.events = [.host (.read .w32 0x004)] ∧ Host.Core.run Sys2Proof.core (1 + 1) s = .next t :=
  ⟨{ busyWith 0x1F#32 with events := [.host (.read .w32 0x004)] },
    (next_of (r := Host.Core.run Sys2Proof.core 2 { busyWith 0x1F#32 with events := [.host (.read .w32 0x004)] })
      (by decide +kernel)).imp fun _ h => ⟨rfl, h⟩⟩

theorem witness_IdleEngineDoesNothing : ∃ s : State, s.busy = false ∧ s.events = [.engine] :=
  ⟨{ State.reset with events := [.engine] }, rfl, rfl⟩

/-- Two keys, one public view; a write and a read. -/
theorem witness_HostAccessesRevealNoSecret :
    SamePublic pkeyLoaded { pkeyLoaded with pkey := full (Vector.replicate 8 0#32) } ∧ pkeyLoaded.pkey ≠ full (Vector.replicate 8 0#32)
      ∧ (∃ t, hostAccess (.read .w32 0x080) pkeyLoaded = .next t) ∧ ∃ t, hostAccess (.write .w32 0x080 1#32) pkeyLoaded = .next t :=
  ⟨rfl, by decide +kernel, next_of (by decide +kernel), next_of (by decide +kernel)⟩

end Sys2Proof.Tests
end

/-! PROOFS: `ct_eq` on strings of a fixed length (R13). -/

namespace Sys2Proof.Machine

/-- R13's comparison of two strings of one fixed length, by `ctEq_iff`. -/
theorem ctEq_toList_iff {n : Nat} (a b : Vector Byte n) : ctEq a.toList b.toList = true ↔ a = b := by
  rw [ctEq_iff (by simp), Vector.toList_inj]

/-- Two strings agree exactly when every bytewise XOR is zero. -/
theorem eq_iff_forall_xor_eq_zero {n : Nat} (a b : Vector Byte n) :
    a = b ↔ ∀ (i : Nat) (h : i < n), a[i] ^^^ b[i] = 0#8 := by
  simp only [BitVec.xor_eq_zero_iff]
  constructor
  · rintro rfl i h
    rfl
  · exact Vector.ext

/-- Settles O19: a string comparison by `ctEq_iff`, and equality read byte by byte. -/
theorem ctEqDecidesEquality : Obligations.CtEqDecidesEquality := by
  unfold Obligations.CtEqDecidesEquality
  intro a b
  exact ⟨(ctEq_toList_iff a b).trans (eq_iff_forall_xor_eq_zero a b), ctEq_toList_iff a b⟩

end Sys2Proof.Machine

/-! PROOFS: the rules of the architectural state over all commands and reset (R37, R39, R40, R45). -/

namespace Sys2Proof.Machine

/-! ## Shared facts -/

/-- An illegal word's completion is the bookkeeping of ILLEGAL_CMD and nothing else (R94). -/
theorem engineTurn_illegal {s t : State} {e : IllegalWord} (hb : s.busy = true) (he : decode s.pend = .error e)
    (h : engineTurn s = .next t) : t = s.finishError .illegalCmd := by
  simpa [engineTurn, completion, hb, he] using h.symm

theorem completedError_finishError (e : ErrCode) (s : State) : CompletedError e (s.finishError e) :=
  ⟨rfl, rfl, rfl, rfl, rfl⟩

theorem completedOk_encrypted (s : State) (p : Port) (b0 : Vector Byte 64) (ct : Bytes) :
    CompletedOk s (s.encrypted p b0 ct) :=
  ⟨rfl, rfl, rfl, rfl, rfl⟩

/-- A failed check of A_ENCRYPT consumes KEY and NONCE and records the error (R160). -/
theorem execAEncrypt_of_checks_fail {s t : State} (h : execAEncrypt s = .next t)
    (hc : s.pstate = .active ∨ s.aeadArgs false = false) : ∃ e, t = s.consumeKeyNonce.finishError e := by
  obtain ⟨-, rfl⟩ | ⟨-, -, rfl⟩ | ⟨hp, ha, -⟩ := encryptWith_cases h
  · exact ⟨_, rfl⟩
  · exact ⟨_, rfl⟩
  · simp [hp, ha] at hc

/-- A_ENCRYPT past its checks ends in the port-failure label or in success (R160). -/
theorem execAEncrypt_of_checks_pass {s t : State} (h : execAEncrypt s = .next t) (hp : s.pstate ≠ .active)
    (ha : s.aeadArgs false = true) :
    (∃ p, t = s.encryptFailed p) ∨ (∃ p b0 ct, ct.length ≤ s.srcLen.toNat ∧ t = s.encrypted p b0 ct) := by
  obtain ⟨hp', -⟩ | ⟨-, ha', -⟩ | ⟨-, -, hend⟩ := encryptWith_cases h
  · exact absurd hp' hp
  · simp [ha] at ha'
  · exact hend

/-- A failed check of A_DECRYPT consumes KEY, NONCE and REFTAG and records the error (R170). -/
theorem execADecrypt_of_checks_fail {s t : State} (h : execADecrypt s = .next t)
    (hc : s.pstate = .active ∨ s.aeadArgs true = false) : ∃ e, t = s.consumeKeyNonceReftag.finishError e := by
  obtain ⟨-, rfl⟩ | ⟨-, -, rfl⟩ | ⟨hp, ha, -⟩ := decryptWith_cases h
  · exact ⟨_, rfl⟩
  · exact ⟨_, rfl⟩
  · simp [hp, ha] at hc

/-- A_DECRYPT past its checks ends in one of its two failures or in success (R170). -/
theorem execADecrypt_of_checks_pass {s t : State} (h : execADecrypt s = .next t) (hp : s.pstate ≠ .active)
    (ha : s.aeadArgs true = true) :
    (∃ p e, t = s.decryptFailed p e) ∨ (∃ p pt, pt.length ≤ s.srcLen.toNat ∧ t = s.decrypted p pt) := by
  obtain ⟨hp', -⟩ | ⟨-, ha', -⟩ | ⟨-, -, ⟨p, rfl⟩ | ⟨p, rfl⟩ | hok⟩ := decryptWith_cases h
  · exact absurd hp' hp
  · simp [ha] at ha'
  · exact .inl ⟨p, _, rfl⟩
  · exact .inl ⟨p, _, rfl⟩
  · exact .inr hok

/-! ## Input sets (R39) -/

theorem execPInit_inputSets {s t : State} (h : execPInit s = .next t) :
    t.pkey = .wiped ∧ t.key = s.key ∧ t.nonce = s.nonce ∧ t.reftag = s.reftag := by
  obtain ⟨-, rfl⟩ | ⟨-, rfl⟩ := execPInit_cases h <;> simp

theorem execPUpdate_inputSets {s t : State} (h : execPUpdate s = .next t) :
    t.pkey = s.pkey ∧ t.key = s.key ∧ t.nonce = s.nonce ∧ t.reftag = s.reftag := by
  obtain ⟨-, rfl⟩ | ⟨-, -, rfl⟩ | ⟨-, -, rfl⟩ := execPUpdate_cases h <;> simp

theorem execPFinal_inputSets {s t : State} (h : execPFinal s = .next t) :
    t.pkey = s.pkey ∧ t.key = s.key ∧ t.nonce = s.nonce ∧ t.reftag = s.reftag := by
  obtain ⟨-, rfl⟩ | ⟨-, rfl⟩ := execPFinal_cases h <;> simp

theorem execPVerify_inputSets {s t : State} (h : execPVerify s = .next t) :
    t.pkey = s.pkey ∧ t.key = s.key ∧ t.nonce = s.nonce ∧ t.reftag = .wiped := by
  obtain ⟨-, rfl⟩ | ⟨-, -, rfl⟩ | ⟨-, -, rfl⟩ := execPVerify_cases h <;> simp

theorem execAEncrypt_inputSets {s t : State} (h : execAEncrypt s = .next t) :
    t.pkey = s.pkey ∧ t.key = .wiped ∧ t.nonce = .wiped ∧ t.reftag = s.reftag := by
  obtain ⟨-, rfl⟩ | ⟨-, -, rfl⟩ | ⟨-, -, ⟨p, rfl⟩ | ⟨p, b0, ct, -, rfl⟩⟩ := encryptWith_cases h <;> simp

theorem execADecrypt_inputSets {s t : State} (h : execADecrypt s = .next t) :
    t.pkey = s.pkey ∧ t.key = .wiped ∧ t.nonce = .wiped ∧ t.reftag = .wiped := by
  obtain ⟨-, rfl⟩ | ⟨-, -, rfl⟩ | ⟨-, -, ⟨p, rfl⟩ | ⟨p, rfl⟩ | ⟨p, pt, -, rfl⟩⟩ := decryptWith_cases h <;> simp

theorem execWipe_inputSets {zm : Bool} {s t : State} (h : execWipe zm s = .next t) :
    t.pkey = .wiped ∧ t.key = .wiped ∧ t.nonce = .wiped ∧ t.reftag = .wiped := by
  obtain ⟨-, rfl⟩ | ⟨-, rfl⟩ := execWipe_cases h <;> simp

/-- Settles O36: each command's answers consume its own sets; an illegal word's answer is bookkeeping only. -/
theorem commandsConsumeTheirInputSets : Obligations.CommandsConsumeTheirInputSets := by
  unfold Obligations.CommandsConsumeTheirInputSets
  refine ⟨fun i s t h => ?_, fun s t e hb he h => ?_, fun n i hi => ?_, fun n => rfl⟩
  · cases i with
    | pInit => exact execPInit_inputSets h
    | pUpdate => exact execPUpdate_inputSets h
    | pFinal => exact execPFinal_inputSets h
    | pVerify => exact execPVerify_inputSets h
    | aEncrypt => exact execAEncrypt_inputSets h
    | aDecrypt => exact execADecrypt_inputSets h
    | wipe zm => exact execWipe_inputSets h
  · simp [engineTurn_illegal hb he h]
  · simp [InputSet.wiped]

/-! ## TAGV (R40) -/

theorem execPInit_tagv {s t : State} (h : execPInit s = .next t) : t.tagv = s.tagv := by
  obtain ⟨-, rfl⟩ | ⟨-, rfl⟩ := execPInit_cases h <;> simp

theorem execPUpdate_tagv {s t : State} (h : execPUpdate s = .next t) : t.tagv = s.tagv := by
  obtain ⟨-, rfl⟩ | ⟨-, -, rfl⟩ | ⟨-, -, rfl⟩ := execPUpdate_cases h <;> simp

theorem execPFinal_tagv {s t : State} (h : execPFinal s = .next t) :
    (s.pstate = .active → t.tagv = true) ∧ (s.pstate ≠ .active → t.tagv = s.tagv) := by
  obtain ⟨hp, rfl⟩ | ⟨hp, rfl⟩ := execPFinal_cases h <;> simp [hp]

theorem execPVerify_tagv {s t : State} (h : execPVerify s = .next t) : t.tagv = s.tagv := by
  obtain ⟨-, rfl⟩ | ⟨-, -, rfl⟩ | ⟨-, -, rfl⟩ := execPVerify_cases h <;> simp

theorem execAEncrypt_tagv_of_checks_fail {s t : State} (h : execAEncrypt s = .next t)
    (hc : s.pstate = .active ∨ s.aeadArgs false = false) : t.tagv = s.tagv := by
  obtain ⟨e, rfl⟩ := execAEncrypt_of_checks_fail h hc
  simp

theorem execAEncrypt_tagv_of_checks_pass {s t : State} (h : execAEncrypt s = .next t) (hp : s.pstate ≠ .active)
    (ha : s.aeadArgs false = true) :
    (t.tagv = true ∧ CompletedOk s t) ∨ (t.tagv = false ∧ CompletedError .underlyingPrimitiveFailure t) := by
  obtain ⟨p, rfl⟩ | ⟨p, b0, ct, -, rfl⟩ := execAEncrypt_of_checks_pass h hp ha
  · exact .inr ⟨by simp, completedError_finishError _ _⟩
  · exact .inl ⟨by simp, completedOk_encrypted s p b0 ct⟩

theorem execADecrypt_tagv_of_checks_fail {s t : State} (h : execADecrypt s = .next t)
    (hc : s.pstate = .active ∨ s.aeadArgs true = false) : t.tagv = s.tagv := by
  obtain ⟨e, rfl⟩ := execADecrypt_of_checks_fail h hc
  simp

theorem execADecrypt_tagv_of_checks_pass {s t : State} (h : execADecrypt s = .next t) (hp : s.pstate ≠ .active)
    (ha : s.aeadArgs true = true) : t.tagv = false := by
  obtain ⟨p, e, rfl⟩ | ⟨p, pt, -, rfl⟩ := execADecrypt_of_checks_pass h hp ha <;> simp

theorem execWipe_tagv {zm : Bool} {s t : State} (h : execWipe zm s = .next t) : t.tagv = false := by
  obtain ⟨-, rfl⟩ | ⟨-, rfl⟩ := execWipe_cases h <;> simp

/-- A bit of a field laid into a word: the field's own bit, and 0 outside it. -/
theorem getElem_fieldAt {n : Nat} (lo : Nat) (x : BitVec n) (i : Nat) (hi : i < 32) :
    (fieldAt lo x)[i] = (decide (lo ≤ i) && x.getLsbD (i - lo)) := by
  by_cases hlo : lo ≤ i
  · simp [fieldAt, hlo]
  · simp [fieldAt, hlo, show i < lo by omega]

/-- STATUS.TAGV is bit 3 (R23). -/
theorem State.statusWord_bit_three (s : State) : s.statusWord.getLsbD 3 = s.tagv := by
  simp [statusWord, getElem_fieldAt]

/-- Settles O37: each command's effect on `tagv`, STATUS's bit 3, and an illegal word's bookkeeping. -/
theorem tagValidBitRule : Obligations.TagValidBitRule := by
  unfold Obligations.TagValidBitRule
  refine ⟨fun i s t h => ?_, fun s => ⟨s.resetEvent_tagv, s.statusWord_bit_three⟩, fun s t e hb he h => ?_⟩
  · cases i with
    | pInit => exact execPInit_tagv h
    | pUpdate => exact execPUpdate_tagv h
    | pFinal => exact execPFinal_tagv h
    | pVerify => exact execPVerify_tagv h
    | aEncrypt => exact ⟨execAEncrypt_tagv_of_checks_fail h, execAEncrypt_tagv_of_checks_pass h⟩
    | aDecrypt => exact ⟨execADecrypt_tagv_of_checks_fail h, execADecrypt_tagv_of_checks_pass h⟩
    | wipe zm => exact execWipe_tagv h
  · simp [engineTurn_illegal hb he h]

/-! ## PSTATE (R37) -/

theorem execPInit_pstate {s t : State} (h : execPInit s = .next t) :
    (s.pkey.complete = true → t.pstate = .active) ∧ (s.pkey.complete = false → t.pstate = s.pstate) := by
  obtain ⟨hc, rfl⟩ | ⟨hc, rfl⟩ := execPInit_cases h <;> simp [hc]

theorem execPUpdate_pstate {s t : State} (h : execPUpdate s = .next t) :
    t.pstate = s.pstate ∧ (s.pstate ≠ .active → t.errcode = .sequence ∧ t.unit = s.unit) := by
  obtain ⟨hp, rfl⟩ | ⟨hp, -, rfl⟩ | ⟨hp, -, rfl⟩ := execPUpdate_cases h <;> simp [hp]

theorem execPFinal_pstate {s t : State} (h : execPFinal s = .next t) :
    (s.pstate = .active → t.pstate = .finalized)
      ∧ (s.pstate ≠ .active → t.pstate = s.pstate ∧ t.errcode = .sequence ∧ t.unit = s.unit) := by
  obtain ⟨hp, rfl⟩ | ⟨hp, rfl⟩ := execPFinal_cases h <;> simp [hp]

theorem execPVerify_pstate {s t : State} (h : execPVerify s = .next t) : t.pstate = s.pstate := by
  obtain ⟨-, rfl⟩ | ⟨-, -, rfl⟩ | ⟨-, -, rfl⟩ := execPVerify_cases h <;> simp

theorem execAEncrypt_pstate_of_checks_fail {s t : State} (h : execAEncrypt s = .next t)
    (hc : s.pstate = .active ∨ s.aeadArgs false = false) : t.pstate = s.pstate := by
  obtain ⟨e, rfl⟩ := execAEncrypt_of_checks_fail h hc
  simp

theorem execAEncrypt_pstate_of_checks_pass {s t : State} (h : execAEncrypt s = .next t) (hp : s.pstate ≠ .active)
    (ha : s.aeadArgs false = true) : t.pstate = .empty := by
  obtain ⟨p, rfl⟩ | ⟨p, b0, ct, -, rfl⟩ := execAEncrypt_of_checks_pass h hp ha <;> simp

theorem execADecrypt_pstate_of_checks_fail {s t : State} (h : execADecrypt s = .next t)
    (hc : s.pstate = .active ∨ s.aeadArgs true = false) : t.pstate = s.pstate := by
  obtain ⟨e, rfl⟩ := execADecrypt_of_checks_fail h hc
  simp

theorem execADecrypt_pstate_of_checks_pass {s t : State} (h : execADecrypt s = .next t) (hp : s.pstate ≠ .active)
    (ha : s.aeadArgs true = true) : t.pstate = .empty := by
  obtain ⟨p, e, rfl⟩ | ⟨p, pt, -, rfl⟩ := execADecrypt_of_checks_pass h hp ha <;> simp

theorem execWipe_pstate {zm : Bool} {s t : State} (h : execWipe zm s = .next t) : t.pstate = .empty := by
  obtain ⟨-, rfl⟩ | ⟨-, rfl⟩ := execWipe_cases h <;> simp

/-- Settles O38: each command's PSTATE transition, and the reset event's. -/
theorem pstateTransitions : Obligations.PstateTransitions := by
  unfold Obligations.PstateTransitions
  refine ⟨fun i s t h => ?_, State.resetEvent_pstate⟩
  cases i with
  | pInit => exact execPInit_pstate h
  | pUpdate => exact execPUpdate_pstate h
  | pFinal => exact execPFinal_pstate h
  | pVerify => exact execPVerify_pstate h
  | aEncrypt => exact ⟨execAEncrypt_pstate_of_checks_fail h, execAEncrypt_pstate_of_checks_pass h⟩
  | aDecrypt => exact ⟨execADecrypt_pstate_of_checks_fail h, execADecrypt_pstate_of_checks_pass h⟩
  | wipe zm => exact execWipe_pstate h

/-! ## Reset (R45) -/

theorem IrqBits.toWord_clear : IrqBits.clear.toWord = 0#32 := by decide

theorem State.statusWord_reset : State.reset.statusWord = 0#32 := by decide

theorem State.validWord_reset : State.reset.validWord = 0#32 := by decide

/-- R45's list holds of the power-on state whatever lies outside the engine: its size parameter, MBUF's draw, the
port's outside, the host's events and answers. -/
theorem atReset_of_outside (bytes epoch : Nat) (p : Port) (events : List Event) (responses : List Response) :
    State.AtReset { State.reset with
      mbufBytes := bytes, mbufEpoch := epoch, port := p, events := events, responses := responses } where
  id := rfl
  mbufSize := rfl
  status := State.statusWord_reset
  statusFields := ⟨rfl, rfl, rfl, rfl, rfl, rfl⟩
  irqEn := IrqBits.toWord_clear
  irqStat := IrqBits.toWord_clear
  operands := ⟨rfl, rfl, rfl, rfl, rfl⟩
  valid := State.validWord_reset
  inputWords := by simp [State.reset, InputSet.wiped, zeroTag]
  accumulator := rfl
  multiplier := rfl
  mask := by simp [State.reset, PolyUnit.zero]
  buffer := by simp [State.reset, PolyUnit.zero]
  leftover := rfl
  pend := rfl

theorem reset_atReset : State.reset.AtReset := atReset_of_outside _ _ _ _ _

theorem resetEvent_atReset (s : State) : s.resetEvent.AtReset := atReset_of_outside _ _ _ _ _

/-- A reset that is next happens, whatever the engine is doing (R230). -/
theorem step_of_reset_event {s : State} {rest : List Event} (h : s.events = .reset :: rest) :
    step s = .next { s with events := rest }.resetEvent := by
  simp [step, h, handle]

/-- Settles O53: the step is the reset event, and R45's list holds after it as after power-on. -/
theorem resetAtAnyTime : Obligations.ResetAtAnyTime := by
  unfold Obligations.ResetAtAnyTime
  refine ⟨reset_atReset, fun s rest h => ?_⟩
  exact ⟨_, step_of_reset_event h, resetEvent_atReset _, rfl, rfl, rfl, rfl⟩

end Sys2Proof.Machine

/-! PROOFS: the host window: what a transaction at a mapped register or in the MBUF region does (R63, R65 to R72). -/

namespace Sys2Proof.Machine

/-! ## The register map -/

/-- The register at word `k` of the register region lies at offset 4k (R63). -/
theorem offset_of_regAtWord {k : Nat} {r : Reg} (h : regAtWord k = some r) : r.offset = 4 * k := by
  unfold regAtWord at h
  split at h
  -- the twelve words mapped one by one
  iterate 12 · cases h; rfl
  -- the five register groups, and what is unmapped
  repeat' split at h
  all_goals cases h
  all_goals simp only [Reg.offset]; omega

theorem Reg.offset_mod_four (r : Reg) : r.offset % 4 = 0 := by
  cases r <;> simp only [Reg.offset] <;> omega

/-- The map is exact: an offset names the register that lies there and no other (R63). -/
theorem regAt_eq_some_iff {off : Nat} {r : Reg} : regAt off = some r ↔ r.offset = off := by
  constructor
  · intro h
    unfold regAt at h
    split at h
    · have := offset_of_regAtWord h
      omega
    · cases h
  · rintro rfl
    exact r.regAt_offset

theorem regAt_isSome_iff {off : Nat} : (regAt off).isSome = true ↔ ∃ r : Reg, r.offset = off := by
  simp only [Option.isSome_iff_exists, regAt_eq_some_iff]

/-- No offset of the MBUF region is mapped (R60, R63). -/
theorem regAt_eq_none_of_mbuf {off : Nat} (h : Config.registerBytes ≤ off) : regAt off = none := by
  rw [Option.eq_none_iff_forall_ne_some]
  intro r hr
  have := r.offset_lt
  have := regAt_eq_some_iff.1 hr
  omega

/-! ## Legal accesses (R65) -/

theorem State.legalAccess_register_iff {s : State} {w : Width} {off : Nat} (h : off < Config.registerBytes) :
    s.legalAccess w off = true ↔ w = .w32 ∧ ∃ r : Reg, r.offset = off := by
  simp only [legalAccess, if_pos h, Bool.and_eq_true, beq_iff_eq, regAt_isSome_iff]

theorem State.legalAccess_mbuf_iff {s : State} {w : Width} {off : Nat} (h : Config.registerBytes ≤ off) :
    s.legalAccess w off = true ↔ off % w.bytes = 0 ∧ off + w.bytes ≤ s.windowBytes := by
  simp only [legalAccess, if_neg (Nat.not_lt.2 h), Bool.and_eq_true, beq_iff_eq, decide_eq_true_eq]

/-- An aligned access that starts in the window ends in it: the window's end is a multiple of 4 (R7, R65). -/
theorem Width.aligned_iff {w : Width} {off n : Nat} (hoff : off < n) (hn : n % 4 = 0) :
    off % w.bytes = 0 ∧ off + w.bytes ≤ n ↔ w = .w8 ∨ (w = .w16 ∧ off % 2 = 0) ∨ (w = .w32 ∧ off % 4 = 0) := by
  cases w <;> simp [Width.bytes] <;> omega

theorem State.windowBytes_mod_four {s : State} (h : s.mbufBytes % 4 = 0) : s.windowBytes % 4 = 0 := by
  simp only [windowBytes, Config.registerBytes]
  omega

/-- Settles O41: a mapped offset is an aligned one in the register region, and natural alignment is all that the MBUF
region asks. -/
theorem legalHostAccesses : Obligations.LegalHostAccesses := by
  unfold Obligations.LegalHostAccesses
  intro s w off hoff hsize
  by_cases hreg : off < Config.registerBytes
  · rw [State.legalAccess_register_iff hreg]
    simp only [Config.registerBytes] at hreg
    constructor
    · rintro ⟨rfl, r, rfl⟩
      exact .inl ⟨hreg, rfl, r.offset_mod_four, r, rfl⟩
    · rintro (⟨-, hw, -, hr⟩ | ⟨hm, -⟩)
      · exact ⟨hw, hr⟩
      · omega
  · rw [State.legalAccess_mbuf_iff (Nat.not_lt.1 hreg), Width.aligned_iff hoff (State.windowBytes_mod_four hsize)]
    simp only [Config.registerBytes] at hreg
    constructor
    · exact fun h => .inr ⟨by omega, h⟩
    · rintro (⟨hr, -⟩ | ⟨-, h⟩)
      · omega
      · exact h

/-! ## What an access answers -/

theorem State.legalAccess_offset (s : State) (r : Reg) : s.legalAccess .w32 r.offset = true :=
  (legalAccess_register_iff r.offset_lt).2 ⟨rfl, r, rfl⟩

theorem State.offset_lt_windowBytes (s : State) (r : Reg) : r.offset < s.windowBytes :=
  Nat.lt_of_lt_of_le r.offset_lt (Nat.le_add_right _ _)

theorem State.access_read {s : State} {w : Width} {off : Nat} (hl : s.legalAccess w off = true) :
    s.access (.read w off) = (s, .readOk (s.busRead w off)) :=
  if_pos hl

theorem State.access_write {s : State} {w : Width} {off : Nat} (hl : s.legalAccess w off = true) (v : Word) :
    s.access (.write w off v) = (s.busWrite w off v, .writeOk) :=
  if_pos hl

/-- A transaction in the window is `State.access`, its answer recorded (R64). -/
theorem hostAccess_of_lt {s : State} {a : HostAccess} (h : a.off < s.windowBytes) :
    hostAccess a s = .next { (s.access a).1 with responses := s.responses ++ [(s.access a).2] } :=
  if_pos h

theorem hostAccess_write {s : State} {w : Width} {off : Nat} (h : off < s.windowBytes)
    (hl : s.legalAccess w off = true) (v : Word) :
    hostAccess (.write w off v) s
      = .next { s.busWrite w off v with responses := s.responses ++ [.writeOk] } := by
  rw [hostAccess_of_lt (a := .write w off v) h, State.access_write hl]

/-- The bus read of a mapped register, of any legal width, is `State.readReg`. -/
theorem State.busRead_offset (s : State) (w : Width) (r : Reg) : s.busRead w r.offset = s.readReg r := by
  rw [busRead, if_pos r.offset_lt, r.regAt_offset]

theorem State.busRead_mbuf_busy {s : State} {w : Width} {off : Nat} (hb : s.busy = true)
    (h : Config.registerBytes ≤ off) : s.busRead w off = 0#32 := by
  rw [busRead, if_neg (Nat.not_lt.2 h), if_pos hb]

theorem State.busWrite_busy {s : State} {w : Width} {off : Nat} {v : Word} (hb : s.busy = true) :
    s.busWrite w off v = s.writeBusy v off :=
  if_pos hb

theorem State.busWrite_idle_offset {s : State} {w : Width} {v : Word} (hb : s.busy = false) (r : Reg) :
    s.busWrite w r.offset v = s.writeReg v r := by
  rw [busWrite, hb, if_neg Bool.false_ne_true, writeIdle, if_pos r.offset_lt, r.regAt_offset]

/-! ## Writes while busy (R71) -/

theorem State.writeBusy_refused {s : State} {off : Nat} {v : Word} (hen : off ≠ Reg.irqEn.offset)
    (hstat : off ≠ Reg.irqStat.offset) : s.writeBusy v off = s.refuseWrite := by
  unfold writeBusy
  split
  · rename_i h
    exact absurd (regAt_eq_some_iff.1 h).symm hen
  · rename_i h
    exact absurd (regAt_eq_some_iff.1 h).symm hstat
  · rfl

theorem State.writeBusy_irqEn (s : State) (v : Word) : s.writeBusy v Reg.irqEn.offset = s.writeReg v .irqEn := rfl

theorem State.writeBusy_irqStat (s : State) (v : Word) :
    s.writeBusy v Reg.irqStat.offset = s.writeReg v .irqStat := rfl

/-- A busy engine takes a write to an interrupt register as the same engine idle does (R71). -/
theorem State.access_write_irq_as_idle {s : State} {w : Width} {off : Nat} {v : Word} (hb : s.busy = true)
    (hl : s.legalAccess w off = true) (h : off = Reg.irqEn.offset ∨ off = Reg.irqStat.offset) :
    (s.access (.write w off v)).1 = { ({ s with busy := false }.access (.write w off v)).1 with busy := true } := by
  have hidle : { s with busy := false }.legalAccess w off = true := hl
  rw [access_write hl, access_write hidle, busWrite_busy hb]
  rcases h with rfl | rfl
  · rw [writeBusy_irqEn, busWrite_idle_offset rfl, writeReg, writeReg, ← hb]
  · rw [writeBusy_irqStat, busWrite_idle_offset rfl, writeReg, writeReg, ← hb]

/-- Settles O44: a legal write answers normally, and while busy it is `State.writeBusy`, by the offset it names. -/
theorem writesWhileBusyAreRefused : Obligations.WritesWhileBusyAreRefused := by
  unfold Obligations.WritesWhileBusyAreRefused
  intro s w off v hb hoff hl
  rw [hostAccess_write hoff hl, State.busWrite_busy hb]
  refine ⟨fun hen hstat => ?_, ?_, ?_, State.access_write_irq_as_idle hb hl⟩
  · rw [State.writeBusy_refused hen hstat, State.refuseWrite]
  · rintro rfl
    rfl
  · rintro rfl
    rfl

/-! ## Reads while busy (R72) -/

/-- STATUS.BUSY is bit 0 (R23). -/
theorem State.statusWord_bit_zero (s : State) : s.statusWord.getLsbD 0 = s.busy := by
  simp [statusWord, getElem_fieldAt]

/-- STATUS.ERR is bit 1 (R23). -/
theorem State.statusWord_bit_one (s : State) : s.statusWord.getLsbD 1 = s.err := by
  simp [statusWord, getElem_fieldAt]

/-- STATUS.MATCH is bit 2 (R23). -/
theorem State.statusWord_bit_two (s : State) : s.statusWord.getLsbD 2 = s.tagMatch := by
  simp [statusWord, getElem_fieldAt]

/-- STATUS.PSTATE is bits 5:4 (R23). -/
theorem State.statusWord_pstate (s : State) : s.statusWord.extractLsb' 4 2 = s.pstate.code := by
  ext i hi
  have : i = 0 ∨ i = 1 := by omega
  rcases this with rfl | rfl <;> simp [statusWord, getElem_fieldAt]

/-- STATUS.ERRCODE is bits 11:8 (R23). -/
theorem State.statusWord_errcode (s : State) : s.statusWord.extractLsb' 8 4 = s.errcode.code := by
  ext i hi
  have : i = 0 ∨ i = 1 ∨ i = 2 ∨ i = 3 := by omega
  rcases this with rfl | rfl | rfl | rfl <;> simp [statusWord, getElem_fieldAt]

theorem State.readReg_tag_busy {s : State} (hb : s.busy = true) (i : Fin 4) : s.readReg (.tag i) = 0#32 :=
  if_pos hb

/-- Only STATUS and TAG read otherwise while busy (R72). -/
theorem State.readReg_eq_idle {s : State} {r : Reg} (hstatus : r ≠ .status) (htag : ∀ i, r ≠ .tag i) :
    s.readReg r = { s with busy := false }.readReg r := by
  cases r with
  | status => exact absurd rfl hstatus
  | tag i => exact absurd rfl (htag i)
  | _ => rfl

/-- Settles O45: the answer of a legal read is `State.busRead`; the invariant keeps a busy engine's ERR, MATCH and
ERRCODE clear. -/
theorem readsWhileBusyHideResults : Obligations.ReadsWhileBusyHideResults := by
  unfold Obligations.ReadsWhileBusyHideResults
  intro s w off hinv hb _ hl
  have hidle : { s with busy := false }.legalAccess w off = true := hl
  rw [State.access_read hl, State.access_read hidle]
  refine ⟨fun hm => ?_, ?_, ?_, ?_⟩
  · rw [State.busRead_mbuf_busy hb hm]
  · rintro i rfl
    rw [State.busRead_offset, State.readReg_tag_busy hb]
  · rintro rfl
    obtain ⟨herr, hcode, hmatch⟩ := hinv.busyClear hb
    refine ⟨s.statusWord, by rw [State.busRead_offset, State.readReg], ?_, ?_, ?_, ?_, s.statusWord_bit_three,
      s.statusWord_pstate⟩
    · rw [State.statusWord_bit_zero, hb]
    · rw [State.statusWord_bit_one, herr]
    · rw [State.statusWord_bit_two, hmatch]
    · rw [State.statusWord_errcode, hcode, ErrCode.code]
  · rintro r rfl hstatus htag
    rw [State.busRead_offset, State.busRead_offset, State.readReg_eq_idle hstatus htag]

/-! ## Read-only and write-only registers, reserved bits (R67) -/

/-- A host write to a mapped register of an idle engine is `State.writeReg`, answered normally. -/
theorem hostAccess_writeReg {s : State} (hb : s.busy = false) (r : Reg) (v : Word) :
    hostAccess (.write .w32 r.offset v) s
      = .next { s.writeReg v r with responses := s.responses ++ [.writeOk] } := by
  rw [hostAccess_write (s.offset_lt_windowBytes r) (s.legalAccess_offset r), State.busWrite_idle_offset hb]

/-- A host read of a mapped register answers `State.readReg` and changes nothing. -/
theorem hostAccess_readReg (s : State) (r : Reg) :
    hostAccess (.read .w32 r.offset) s = .next { s with responses := s.responses ++ [.readOk (s.readReg r)] } := by
  rw [hostAccess_of_lt (a := .read .w32 r.offset) (s.offset_lt_windowBytes r),
    State.access_read (s.legalAccess_offset r), State.busRead_offset]

theorem State.writeReg_readOnly {s : State} {v : Word} {r : Reg}
    (h : r = .id ∨ r = .status ∨ r = .valid ∨ r = .mbufSize ∨ ∃ i, r = .tag i) : s.writeReg v r = s := by
  rcases h with rfl | rfl | rfl | rfl | ⟨i, rfl⟩ <;> rfl

theorem State.readReg_writeOnly {s : State} {r : Reg}
    (h : r = .cmd ∨ (∃ i, r = .key i) ∨ (∃ i, r = .nonce i) ∨ (∃ i, r = .pkey i) ∨ ∃ i, r = .reftag i) :
    s.readReg r = 0#32 := by
  rcases h with rfl | ⟨i, rfl⟩ | ⟨i, rfl⟩ | ⟨i, rfl⟩ | ⟨i, rfl⟩ <;> rfl

namespace IrqBits

/-- An interrupt register's word, bit by bit: DONE, ERR, WERR, and zeros above (R24, R25). -/
theorem getElem_toWord (b : IrqBits) (i : Nat) (hi : i < 32) :
    b.toWord[i] = if i = 0 then b.done else if i = 1 then b.err else if i = 2 then b.werr else false := by
  simp only [toWord, BitVec.getElem_or, getElem_fieldAt, BitVec.getLsbD_ofBool]
  match i with
  | 0 | 1 | 2 => simp
  | n + 3 => simp

/-- Writing IRQ_EN and reading it back keeps bits 2:0 (R24). -/
theorem toWord_ofWord (v : Word) : (ofWord v).toWord = v &&& 0x7#32 := by
  ext i hi
  have hmask : ∀ (j : Nat) (hj : j < 32), (0x7#32)[j] = decide (j < 3) := by decide
  rw [getElem_toWord, BitVec.getElem_and, hmask]
  match i with
  | 0 | 1 | 2 => simp [ofWord, BitVec.getLsbD_eq_getElem]
  | n + 3 => simp

/-- Write 1 to clear, on the words (R25). -/
theorem toWord_clearBy (b : IrqBits) (v : Word) : (b.clearBy v).toWord = b.toWord &&& ~~~v := by
  ext i hi
  rw [getElem_toWord, BitVec.getElem_and, BitVec.getElem_not, getElem_toWord]
  match i with
  | 0 | 1 | 2 => simp [clearBy, BitVec.getLsbD_eq_getElem]
  | n + 3 => simp

/-- The reserved bits 31:3 read 0 (R24, R25). -/
theorem toWord_reserved (b : IrqBits) : b.toWord &&& 0xFFFFFFF8#32 = 0#32 := by
  obtain ⟨done, err, werr⟩ := b
  revert done err werr
  decide

end IrqBits

/-- Settles O46: each register's own line of `State.writeReg` and `State.readReg`, over the bus, and the interrupt
registers as words. -/
theorem readOnlyWriteOnlyAndReservedBits : Obligations.ReadOnlyWriteOnlyAndReservedBits := by
  unfold Obligations.ReadOnlyWriteOnlyAndReservedBits
  refine ⟨fun s r v hb hro => ?_, fun s r hwo => ?_, fun s v => ⟨?_, ?_, ?_, ?_⟩⟩
  · rw [hostAccess_writeReg hb, State.writeReg_readOnly hro]
  · rw [hostAccess_readReg, State.readReg_writeOnly hwo]
  · exact IrqBits.toWord_ofWord v
  · exact s.irqStat.toWord_clearBy v
  · exact s.irqEn.toWord_reserved
  · exact s.irqStat.toWord_reserved

end Sys2Proof.Machine

/-! PROOFS: the AEAD commands and where their output goes: in place, out of place, and the rejected destinations (R81). -/

namespace Sys2Proof.Machine

/-! ## The argument check (R157) and the destination -/

/-- In place, AEAD_ARGS asks nothing beyond complete input sets, the two input ranges in MBUF, and an associated data
clear of the source (R81, R157). -/
theorem State.aeadArgs_inPlace {s : State} {needsRef : Bool} (hk : s.key.complete = true)
    (hn : s.nonce.complete = true) (href : needsRef = true → s.reftag.complete = true)
    (hsrc : rangeOk s.mbufBytes s.srcOff.toNat s.srcLen.toNat = true)
    (haad : rangeOk s.mbufBytes s.aadOff.toNat s.aadLen.toNat = true)
    (hov : overlap s.aadOff.toNat s.aadLen.toNat s.srcOff.toNat s.srcLen.toNat = false) :
    { s with dstOff := s.srcOff }.aeadArgs needsRef = true := by
  have href' : (!needsRef || s.reftag.complete) = true := by
    cases needsRef with
    | false => rfl
    | true => exact href rfl
  simp [aeadArgs, hk, hn, href', hsrc, haad, hov]

/-- What a passed AEAD_ARGS says of the inputs, whatever the destination (R157). -/
theorem State.inputs_of_aeadArgs {s : State} {needsRef : Bool} (h : s.aeadArgs needsRef = true) :
    s.key.complete = true ∧ s.nonce.complete = true ∧ (needsRef = true → s.reftag.complete = true)
      ∧ rangeOk s.mbufBytes s.srcOff.toNat s.srcLen.toNat = true
      ∧ rangeOk s.mbufBytes s.aadOff.toNat s.aadLen.toNat = true := by
  simp only [aeadArgs, Bool.and_eq_true] at h
  obtain ⟨⟨⟨⟨⟨⟨⟨hk, hn⟩, href⟩, hsrc⟩, haad⟩, -⟩, -⟩, -⟩ := h
  exact ⟨hk, hn, fun hr => by simpa [hr] using href, hsrc, haad⟩

/-- Where some destination passes AEAD_ARGS, in place passes too, unless the associated data overlaps the source. -/
theorem State.aeadArgs_inPlace_of_aeadArgs {s : State} {d : Word} {needsRef : Bool}
    (h : { s with dstOff := d }.aeadArgs needsRef = true)
    (hov : overlap s.aadOff.toNat s.aadLen.toNat s.srcOff.toNat s.srcLen.toNat = false) :
    { s with dstOff := s.srcOff }.aeadArgs needsRef = true := by
  obtain ⟨hk, hn, href, hsrc, haad⟩ := inputs_of_aeadArgs h
  exact aeadArgs_inPlace hk hn href hsrc haad hov

/-- A destination that partly overlaps the source, or overlaps the associated data, fails AEAD_ARGS (R81, R157). -/
theorem State.aeadArgs_eq_false_of_overlap {s : State} {needsRef : Bool}
    (h : (overlap s.srcOff.toNat s.srcLen.toNat s.dstOff.toNat s.srcLen.toNat = true ∧ s.srcOff ≠ s.dstOff)
      ∨ overlap s.aadOff.toNat s.aadLen.toNat s.dstOff.toNat s.srcLen.toNat = true) :
    s.aeadArgs needsRef = false := by
  rcases h with ⟨hov, hne⟩ | hov
  · simp [aeadArgs, hov, hne]
  · simp [aeadArgs, hov]

/-! ## The commands' ends, as equations -/

theorem exec_aEncrypt_of_args_fail {s : State} (hp : s.pstate ≠ .active) (ha : s.aeadArgs false = false) :
    exec .aEncrypt s = .next (s.consumeKeyNonce.finishError .invalidArgument) := by
  simp [exec, execAEncrypt, encryptWith, hp, ha]

theorem exec_aDecrypt_of_args_fail {s : State} (hp : s.pstate ≠ .active) (ha : s.aeadArgs true = false) :
    exec .aDecrypt s = .next (s.consumeKeyNonceReftag.finishError .invalidArgument) := by
  simp [exec, execADecrypt, decryptWith, hp, ha]

theorem exec_aEncrypt_of_args_pass {s : State} (hp : s.pstate ≠ .active) (ha : s.aeadArgs false = true) :
    exec .aEncrypt s = encryptBody Config.keystream s := by
  simp [exec, execAEncrypt, encryptWith, hp, ha]

theorem exec_aDecrypt_of_args_pass {s : State} (hp : s.pstate ≠ .active) (ha : s.aeadArgs true = true) :
    exec .aDecrypt s = decryptBody Config.keystream s := by
  simp [exec, execADecrypt, decryptWith, hp, ha]

section
variable {ks : Keystream} {s : State} {p p' : Port} {b0 : Vector Byte 64} {stream : Bytes}

theorem encryptBody_of_first_fail (h : ksReq ks s.port s.keyBytes s.nonceBytes 0 = (none, p)) :
    encryptBody ks s = .next (s.encryptFailed p) := by
  simp only [encryptBody, h]
  rfl

theorem encryptBody_of_data_fail (h : ksReq ks s.port s.keyBytes s.nonceBytes 0 = (some b0, p))
    (hd : ksBlocks ks s.keyBytes s.nonceBytes (dataBlocks s.srcLen.toNat) 1 p = (none, p')) :
    encryptBody ks s = .next (s.encryptFailed p') := by
  simp only [encryptBody, h, hd]
  rfl

theorem encryptBody_of_ok (h : ksReq ks s.port s.keyBytes s.nonceBytes 0 = (some b0, p))
    (hd : ksBlocks ks s.keyBytes s.nonceBytes (dataBlocks s.srcLen.toNat) 1 p = (some stream, p')) :
    encryptBody ks s
      = .next (s.encrypted p' b0 (xorBytes s.srcBytes (stream.take s.srcLen.toNat))) := by
  simp only [encryptBody, h, hd]
  rfl

theorem decryptBody_of_first_fail (h : ksReq ks s.port s.keyBytes s.nonceBytes 0 = (none, p)) :
    decryptBody ks s = .next (s.decryptFailed p .underlyingPrimitiveFailure) := by
  simp only [decryptBody, h]
  rfl

theorem decryptBody_of_mismatch (h : ksReq ks s.port s.keyBytes s.nonceBytes 0 = (some b0, p))
    (hm : ctEq (aeadTag b0 s.aadBytes s.srcBytes) s.reftagBytes.toList = false) :
    decryptBody ks s = .next (s.decryptFailed p .authenticationFailure) := by
  simp only [decryptBody, h, hm]
  rfl

theorem decryptBody_of_match (h : ksReq ks s.port s.keyBytes s.nonceBytes 0 = (some b0, p))
    (hm : ctEq (aeadTag b0 s.aadBytes s.srcBytes) s.reftagBytes.toList = true) :
    decryptBody ks s = decryptData ks (s.decrypting p) := by
  simp only [decryptBody, h, hm]
  rfl

theorem decryptData_of_fail
    (hd : ksBlocks ks s.keyBytes s.nonceBytes (dataBlocks s.srcLen.toNat) 1 s.port = (none, p)) :
    decryptData ks s = decryptPortFailure { s with port := p } := by
  simp only [decryptData, hd]

theorem decryptData_of_ok
    (hd : ksBlocks ks s.keyBytes s.nonceBytes (dataBlocks s.srcLen.toNat) 1 s.port = (some stream, p)) :
    decryptData ks s
      = complete
          { { s with port := p }.memWrite s.dstOff.toNat (xorBytes s.srcBytes (stream.take s.srcLen.toNat)) with
            tagMatch := true }.aeadExitDecrypt := by
  simp only [decryptData, hd]

theorem decryptBody_of_data_fail (h : ksReq ks s.port s.keyBytes s.nonceBytes 0 = (some b0, p))
    (hm : ctEq (aeadTag b0 s.aadBytes s.srcBytes) s.reftagBytes.toList = true)
    (hd : ksBlocks ks s.keyBytes s.nonceBytes (dataBlocks s.srcLen.toNat) 1 p = (none, p')) :
    decryptBody ks s = .next (s.decryptFailed p' .underlyingPrimitiveFailure) :=
  (decryptBody_of_match h hm).trans (decryptData_of_fail (s := s.decrypting p) hd)

theorem decryptBody_of_ok (h : ksReq ks s.port s.keyBytes s.nonceBytes 0 = (some b0, p))
    (hm : ctEq (aeadTag b0 s.aadBytes s.srcBytes) s.reftagBytes.toList = true)
    (hd : ksBlocks ks s.keyBytes s.nonceBytes (dataBlocks s.srcLen.toNat) 1 p = (some stream, p')) :
    decryptBody ks s = .next (s.decrypted p' (xorBytes s.srcBytes (stream.take s.srcLen.toNat))) :=
  (decryptBody_of_match h hm).trans (decryptData_of_ok (s := s.decrypting p) hd)

end

/-- `n` blocks of keystream are 64 n bytes (R151). -/
theorem length_of_ksBlocks {ks : Keystream} {key : Vector Byte 32} {nonce : Vector Byte 12} {n ctr : Nat}
    {p p' : Port} {stream : Bytes} (h : ksBlocks ks key nonce n ctr p = (some stream, p')) :
    stream.length = 64 * n := by
  induction n generalizing ctr p p' stream with
  | zero =>
    simp only [ksBlocks, Prod.mk.injEq, Option.some.injEq] at h
    simp [← h.1]
  | succ n ih =>
    rw [ksBlocks] at h
    split at h
    · cases h
    · split at h
      · cases h
      · rename_i hrest
        have := ih hrest
        cases h
        simp only [List.length_append, Vector.length_toList]
        omega

/-- The data keystream covers the input, so the output is as long as the input (R152). -/
theorem State.length_xor_srcBytes {s : State} {ks : Keystream} {key : Vector Byte 32} {nonce : Vector Byte 12}
    {p p' : Port} {stream : Bytes}
    (h : ksBlocks ks key nonce (dataBlocks s.srcLen.toNat) 1 p = (some stream, p')) :
    (xorBytes s.srcBytes (stream.take s.srcLen.toNat)).length = s.srcLen.toNat := by
  have hlen := length_of_ksBlocks h
  simp only [dataBlocks] at hlen
  simp only [length_xorBytes, srcBytes, length_memRead, List.length_take]
  omega

/-! ## What the ends hold in the destination range -/

/-- The output range of a state whose MBUF is `s`'s with `x` written at DST_OFF. -/
theorem State.dstBytes_of_mbuf_eq {s t : State} {x : Bytes}
    (hm : t.mbuf = Memory.write s.mbuf t.dstOff.toNat x) (he : t.mbufEpoch = s.mbufEpoch)
    (hl : x.length = t.srcLen.toNat) : t.dstBytes = x := by
  rw [dstBytes, ← hl]
  exact memRead_of_mbuf_eq hm he

theorem State.dstBytes_encryptFailed (s : State) (p : Port) : (s.encryptFailed p).dstBytes = zeros s.srcLen.toNat :=
  dstBytes_of_mbuf_eq (s := s) rfl rfl (length_zeros _)

theorem State.dstBytes_encrypted {s : State} {ct : Bytes} (hl : ct.length = s.srcLen.toNat) (p : Port)
    (b0 : Vector Byte 64) : (s.encrypted p b0 ct).dstBytes = ct :=
  dstBytes_of_mbuf_eq (s := s) rfl rfl hl

theorem State.dstBytes_decryptFailed (s : State) (p : Port) (e : ErrCode) :
    (s.decryptFailed p e).dstBytes = zeros s.srcLen.toNat :=
  dstBytes_of_mbuf_eq (s := s) rfl rfl (length_zeros _)

theorem State.dstBytes_decrypted {s : State} {pt : Bytes} (hl : pt.length = s.srcLen.toNat) (p : Port) :
    (s.decrypted p pt).dstBytes = pt :=
  dstBytes_of_mbuf_eq (s := s) rfl rfl hl

/-! ## The results do not depend on the destination (R81) -/

/-- What R81 compares: the output bytes, each state's in its own destination range, the tag, MATCH, the error and what
the keystream port has seen. -/
def SameResults (t u : State) : Prop :=
  t.dstBytes = u.dstBytes ∧ t.tag = u.tag ∧ t.tagv = u.tagv ∧ t.tagMatch = u.tagMatch
    ∧ t.err = u.err ∧ t.errcode = u.errcode ∧ t.port = u.port

section
variable (s : State) (a b : Word) (p : Port)

theorem sameResults_encryptFailed :
    SameResults ({ s with dstOff := a }.encryptFailed p) ({ s with dstOff := b }.encryptFailed p) :=
  ⟨by rw [State.dstBytes_encryptFailed, State.dstBytes_encryptFailed], rfl, rfl, rfl, rfl, rfl, rfl⟩

theorem sameResults_encrypted (b0 : Vector Byte 64) {ct : Bytes} (hl : ct.length = s.srcLen.toNat) :
    SameResults ({ s with dstOff := a }.encrypted p b0 ct) ({ s with dstOff := b }.encrypted p b0 ct) :=
  ⟨by rw [State.dstBytes_encrypted, State.dstBytes_encrypted] <;> exact hl, rfl, rfl, rfl, rfl, rfl, rfl⟩

theorem sameResults_decryptFailed (e : ErrCode) :
    SameResults ({ s with dstOff := a }.decryptFailed p e) ({ s with dstOff := b }.decryptFailed p e) :=
  ⟨by rw [State.dstBytes_decryptFailed, State.dstBytes_decryptFailed], rfl, rfl, rfl, rfl, rfl, rfl⟩

theorem sameResults_decrypted {pt : Bytes} (hl : pt.length = s.srcLen.toNat) :
    SameResults ({ s with dstOff := a }.decrypted p pt) ({ s with dstOff := b }.decrypted p pt) :=
  ⟨by rw [State.dstBytes_decrypted, State.dstBytes_decrypted] <;> exact hl, rfl, rfl, rfl, rfl, rfl, rfl⟩

end

/-- A_ENCRYPT past its checks: every input it reads, and so each of its ends, is the same for two destinations; the
source and the associated data are read before the output is written (R81, R160). -/
theorem encryptBody_sameResults (ks : Keystream) (s : State) (a b : Word) :
    ∃ t u, encryptBody ks { s with dstOff := a } = .next t ∧ encryptBody ks { s with dstOff := b } = .next u
      ∧ SameResults t u := by
  rcases h : ksReq ks s.port s.keyBytes s.nonceBytes 0 with ⟨_ | b0, p⟩
  · exact ⟨_, _, encryptBody_of_first_fail h, encryptBody_of_first_fail h, sameResults_encryptFailed s a b p⟩
  · rcases hd : ksBlocks ks s.keyBytes s.nonceBytes (dataBlocks s.srcLen.toNat) 1 p with ⟨_ | stream, p'⟩
    · exact ⟨_, _, encryptBody_of_data_fail h hd, encryptBody_of_data_fail h hd, sameResults_encryptFailed s a b p'⟩
    · exact ⟨_, _, encryptBody_of_ok h hd, encryptBody_of_ok h hd,
        sameResults_encrypted s a b p' b0 (State.length_xor_srcBytes hd)⟩

/-- The same for A_DECRYPT past its checks (R81, R170). -/
theorem decryptBody_sameResults (ks : Keystream) (s : State) (a b : Word) :
    ∃ t u, decryptBody ks { s with dstOff := a } = .next t ∧ decryptBody ks { s with dstOff := b } = .next u
      ∧ SameResults t u := by
  rcases h : ksReq ks s.port s.keyBytes s.nonceBytes 0 with ⟨_ | b0, p⟩
  · exact ⟨_, _, decryptBody_of_first_fail h, decryptBody_of_first_fail h, sameResults_decryptFailed s a b p _⟩
  · cases hm : ctEq (aeadTag b0 s.aadBytes s.srcBytes) s.reftagBytes.toList with
    | false =>
      exact ⟨_, _, decryptBody_of_mismatch h hm, decryptBody_of_mismatch h hm, sameResults_decryptFailed s a b p _⟩
    | true =>
      rcases hd : ksBlocks ks s.keyBytes s.nonceBytes (dataBlocks s.srcLen.toNat) 1 p with ⟨_ | stream, p'⟩
      · exact ⟨_, _, decryptBody_of_data_fail h hm hd, decryptBody_of_data_fail h hm hd,
          sameResults_decryptFailed s a b p' _⟩
      · exact ⟨_, _, decryptBody_of_ok h hm hd, decryptBody_of_ok h hm hd,
          sameResults_decrypted s a b p' (State.length_xor_srcBytes hd)⟩

/-- Any two destinations that pass A_ENCRYPT's checks get the same results. -/
theorem exec_aEncrypt_sameResults {s : State} {a b : Word} (hp : s.pstate ≠ .active)
    (ha : { s with dstOff := a }.aeadArgs false = true) (hb : { s with dstOff := b }.aeadArgs false = true) :
    ∃ t u, exec .aEncrypt { s with dstOff := a } = .next t ∧ exec .aEncrypt { s with dstOff := b } = .next u
      ∧ SameResults t u := by
  rw [exec_aEncrypt_of_args_pass (s := { s with dstOff := a }) hp ha,
    exec_aEncrypt_of_args_pass (s := { s with dstOff := b }) hp hb]
  exact encryptBody_sameResults Config.keystream s a b

/-- Any two destinations that pass A_DECRYPT's checks get the same results. -/
theorem exec_aDecrypt_sameResults {s : State} {a b : Word} (hp : s.pstate ≠ .active)
    (ha : { s with dstOff := a }.aeadArgs true = true) (hb : { s with dstOff := b }.aeadArgs true = true) :
    ∃ t u, exec .aDecrypt { s with dstOff := a } = .next t ∧ exec .aDecrypt { s with dstOff := b } = .next u
      ∧ SameResults t u := by
  rw [exec_aDecrypt_of_args_pass (s := { s with dstOff := a }) hp ha,
    exec_aDecrypt_of_args_pass (s := { s with dstOff := b }) hp hb]
  exact decryptBody_sameResults Config.keystream s a b

/-- Settles O31: in place passes its checks whenever some destination does, two destinations that pass get the same
results, and the two bad overlaps fail AEAD_ARGS. -/
theorem inPlaceEqualsOutOfPlace : Obligations.InPlaceEqualsOutOfPlace := by
  unfold Obligations.InPlaceEqualsOutOfPlace
  intro s d hp
  refine ⟨fun hov => ⟨?_, ?_, ?_⟩, fun hbad => ⟨?_, ?_⟩⟩
  · intro needsRef hk hn href hsrc haad
    exact State.aeadArgs_inPlace hk hn href hsrc haad hov
  · exact fun hd => exec_aEncrypt_sameResults hp (State.aeadArgs_inPlace_of_aeadArgs hd hov) hd
  · exact fun hd => exec_aDecrypt_sameResults hp (State.aeadArgs_inPlace_of_aeadArgs hd hov) hd
  · exact ⟨_, exec_aEncrypt_of_args_fail hp (State.aeadArgs_eq_false_of_overlap hbad), completedError_finishError _ _⟩
  · exact ⟨_, exec_aDecrypt_of_args_fail hp (State.aeadArgs_eq_false_of_overlap hbad), completedError_finishError _ _⟩

end Sys2Proof.Machine

/-! PROOFS: the decoder, the opcode map and the illegal words (R90 to R94). -/

namespace Sys2Proof

/-! ## A word and its fields (R90) -/

/-- The three fields of a word hold all of its bits. -/
theorem Cmd32.toWord_ofWord (w : Word) : (Cmd32.ofWord w).toWord = w := by
  ext i hi
  simp only [toWord, ofWord, BitVec.getElem_or, Machine.getElem_fieldAt, BitVec.getLsbD_extractLsb',
    BitVec.getLsbD_ofBool]
  -- a bit of OP, ZM, or a bit of RSV
  obtain h | rfl | h : i < 8 ∨ i = 8 ∨ 8 < i := by omega
  · simp [h, show ¬9 ≤ i by omega, show ¬8 ≤ i by omega, BitVec.getLsbD_eq_getElem hi]
  · simp [BitVec.getLsbD_eq_getElem]
  · simp [show 9 ≤ i by omega, show 9 + (i - 9) = i by omega, show i - 9 < 23 by omega, show ¬i < 8 by omega,
      show i - 8 ≠ 0 by omega, BitVec.getLsbD_eq_getElem hi]

/-! ## What the decoder accepts (R92 to R94) -/

/-- An operation code names the command of that code; ZM is WIPE's own. -/
theorem fields_of_instrOfOp {op : BitVec 8} {zm : Bool} {i : Instr} (h : instrOfOp op zm = some i)
    (hzm : zm = true → op = 0x1F#8) : i.fields = { op := op, zm := zm, rsv := 0#23 } := by
  unfold instrOfOp at h
  repeat' split at h
  all_goals cases h
  all_goals subst op
  -- the six codes that leave no choice of ZM, then WIPE's
  iterate 6
    · obtain rfl : zm = false := by simpa using hzm
      rfl
  · rfl

/-- Every assigned operation code names a command (R93). -/
theorem exists_instrOfOp {op : BitVec 8} (zm : Bool) (h : assignedOps.contains op = true) :
    ∃ i, instrOfOp op zm = some i := by
  simp only [assignedOps, List.contains_eq_mem, decide_eq_true_eq, List.mem_cons, List.not_mem_nil, or_false] at h
  rcases h with rfl | rfl | rfl | rfl | rfl | rfl | rfl <;> exact ⟨_, rfl⟩

theorem Instr.fields_wellFormed (i : Instr) : i.fields.wellFormed = true := by
  cases i with
  | wipe zm => cases zm <;> rfl
  | _ => rfl

/-- A word decodes to a command exactly when its fields are that command's. -/
theorem decode_eq_ok_iff {w : Word} {i : Instr} : decode w = .ok i ↔ Cmd32.ofWord w = i.fields := by
  constructor
  · intro h
    unfold decode at h
    generalize Cmd32.ofWord w = c at h ⊢
    obtain ⟨op, zm, rsv⟩ := c
    simp only at h
    split at h
    · cases h
    · rename_i hrsv
      split at h
      · cases h
      · rename_i j hj
        split at h
        · cases h
        · rename_i hzm
          cases h
          rw [fields_of_instrOfOp hj (by simpa using hzm), not_not.1 hrsv]
  · intro h
    unfold decode
    rw [h]
    cases i with
    | wipe zm => cases zm <;> rfl
    | _ => rfl

/-- A word that decodes is its command's word. -/
theorem eq_encode_of_decode {w : Word} {i : Instr} (h : decode w = .ok i) : w = encode i := by
  rw [encode, ← decode_eq_ok_iff.1 h, Cmd32.toWord_ofWord]

/-- The legal words are those with well-formed fields. -/
theorem exists_decode_iff_wellFormed {w : Word} :
    (∃ i, decode w = .ok i) ↔ (Cmd32.ofWord w).wellFormed = true := by
  simp only [decode_eq_ok_iff]
  generalize Cmd32.ofWord w = c
  constructor
  · rintro ⟨i, rfl⟩
    exact i.fields_wellFormed
  · intro h
    simp only [Cmd32.wellFormed, Bool.and_eq_true] at h
    obtain ⟨⟨hop, hrsv⟩, hzm⟩ := h
    obtain ⟨i, hi⟩ := exists_instrOfOp c.zm hop
    have hzm : c.zm = true → c.op = 0x1F#8 := fun hz => by simpa [Cmd32.zmOk, hz] using hzm
    exact ⟨i, by rw [fields_of_instrOfOp hi hzm, ← beq_iff_eq.1 hrsv]⟩

/-- Decoding is total (R92): a word is illegal exactly when it is not legal. -/
theorem exists_decode_error_iff {w : Word} : (∃ e, decode w = .error e) ↔ ¬∃ i, decode w = .ok i := by
  cases decode w <;> simp

/-! ## The opcode map (R92, R93) -/

/-- A legal word matches the row of its command's name and no other. -/
theorem matchingRows_mnemonic {w : Word} {i : Instr} (h : decode w = .ok i) :
    (matchingRows w).map (·.mnemonic) = [i.mnemonic] := by
  rw [eq_encode_of_decode h]
  cases i with
  | pInit => exact Laws.Encoded.pInit.1
  | pUpdate => exact Laws.Encoded.pUpdate.1
  | pFinal => exact Laws.Encoded.pFinal.1
  | pVerify => exact Laws.Encoded.pVerify.1
  | aEncrypt => exact Laws.Encoded.aEncrypt.1
  | aDecrypt => exact Laws.Encoded.aDecrypt.1
  | wipe zm => exact (Laws.Encoded.wipe zm).1

/-- A field that the mask of a match leaves whole is the pattern's field. -/
theorem extractLsb'_of_and_eq {w mask pattern : Word} (h : w &&& mask = pattern) {lo n : Nat}
    (hmask : mask.extractLsb' lo n = BitVec.allOnes n) : w.extractLsb' lo n = pattern.extractLsb' lo n := by
  rw [← h, BitVec.extractLsb'_and, hmask, BitVec.and_allOnes]

/-- WIPE's row leaves open bit 8 only, which is ZM. -/
theorem ofWord_of_matches_wipe {w : Word} (h : w &&& 0xFFFFFEFF#32 = 0x0000001F#32) :
    Cmd32.ofWord w = (Instr.wipe (w.getLsbD 8)).fields := by
  rw [Cmd32.ofWord, extractLsb'_of_and_eq (lo := 0) h (by decide), extractLsb'_of_and_eq (lo := 9) h (by decide)]
  rfl

/-- A word that matches a row of the map is legal. -/
theorem exists_decode_of_matchesWord {w : Word} {row : OpcodeRow} (hrow : row ∈ opcodeTable)
    (hw : row.matchesWord w = true) : ∃ i, decode w = .ok i := by
  simp only [OpcodeRow.matchesWord, beq_iff_eq] at hw
  simp only [opcodeTable, List.mem_cons, List.not_mem_nil, or_false] at hrow
  have hfull (v : Word) : v &&& 0xFFFFFFFF#32 = v := BitVec.and_allOnes
  rcases hrow with rfl | rfl | rfl | rfl | rfl | rfl | rfl
  -- the six rows that fix every bit, then WIPE's
  iterate 6
    · rw [hfull] at hw
      subst hw
      exact ⟨_, rfl⟩
  · exact ⟨_, decode_eq_ok_iff.2 (ofWord_of_matches_wipe hw)⟩

theorem exists_decode_iff_length_matchingRows {w : Word} :
    (∃ i, decode w = .ok i) ↔ (matchingRows w).length = 1 := by
  constructor
  · rintro ⟨i, hi⟩
    simpa using congrArg List.length (matchingRows_mnemonic hi)
  · intro h
    obtain ⟨row, hrow⟩ := List.exists_mem_of_length_pos (h ▸ Nat.one_pos)
    obtain ⟨hmem, hmatch⟩ := List.mem_filter.1 hrow
    exact exists_decode_of_matchesWord hmem hmatch

/-- Settles O2: a legal word is its command's word, which matches one row, and a word that matches a row is legal. -/
theorem legalWordsMatchOneRow : Obligations.LegalWordsMatchOneRow := by
  unfold Obligations.LegalWordsMatchOneRow
  exact ⟨fun _ => exists_decode_iff_length_matchingRows, fun _ _ => matchingRows_mnemonic,
    fun _ => exists_decode_error_iff.trans (not_congr exists_decode_iff_length_matchingRows)⟩

/-! ## The illegal words (R94) -/

/-- R94's ranges of operation codes are the codes of no row. -/
theorem assignedOps_contains_eq_false_iff (op : BitVec 8) :
    assignedOps.contains op = false ↔
      op.toNat = 0x00 ∨ (0x05 ≤ op.toNat ∧ op.toNat ≤ 0x0F) ∨ (0x12 ≤ op.toNat ∧ op.toNat ≤ 0x1E)
        ∨ 0x20 ≤ op.toNat := by
  simp only [assignedOps, List.contains_eq_mem, decide_eq_false_iff_not, List.mem_cons, List.not_mem_nil, or_false,
    ← BitVec.toNat_inj, BitVec.toNat_ofNat]
  omega

/-- The three reasons of R94, field by field. -/
theorem Cmd32.not_wellFormed_iff (c : Cmd32) :
    ¬c.wellFormed = true ↔
      assignedOps.contains c.op = false ∨ c.rsv ≠ 0#23 ∨ (c.zm = true ∧ c.op ≠ 0x1F#8) := by
  simp [wellFormed, opOk, rsvOk, zmOk, or_assoc, -not_and, not_and_or]

end Sys2Proof

namespace Sys2Proof.Machine

/-- An illegal word's completion always answers (R94). -/
theorem engineTurn_of_decode_error {s : State} {e : IllegalWord} (hb : s.busy = true)
    (he : decode s.pend = .error e) : engineTurn s = .next (s.finishError .illegalCmd) := by
  rw [engineTurn, if_pos hb, completion, he, raise]

/-- Settles O3: the illegal words are those with ill-formed fields, an idle engine's CMD register accepts every word,
and an illegal word's completion is `State.finishError`. -/
theorem illegalWordsCompleteWithIllegalCmd : Obligations.IllegalWordsCompleteWithIllegalCmd := by
  unfold Obligations.IllegalWordsCompleteWithIllegalCmd
  refine ⟨fun w => ?_, fun s w hb => ?_, fun s e => engineTurn_of_decode_error⟩
  · rw [exists_decode_error_iff, exists_decode_iff_wellFormed, Cmd32.not_wellFormed_iff,
      assignedOps_contains_eq_false_iff]
    rfl
  · exact ⟨_, hostAccess_writeReg hb .cmd w, rfl, rfl⟩

end Sys2Proof.Machine

/-! PROOFS: the Poly1305 datapath: the value laws of BLOCK, LOAD_KEY, FULL_REDUCE and ADD_MASK (R111 to R115). -/

namespace Sys2Proof.Machine

/-! ## BLOCK (R112, R113) -/

/-- The value five wide limbs stand for (R110). -/
def Wide.value (a : Wide) : Nat :=
  a.d0.toNat + a.d1.toNat * 2 ^ 26 + a.d2.toNat * 2 ^ 52 + a.d3.toNat * 2 ^ 78 + a.d4.toNat * 2 ^ 104

/-- Every wide limb below a bound. -/
structure Wide.Below (a : Wide) (n : Nat) : Prop where
  d0 : a.d0.toNat < n
  d1 : a.d1.toNat < n
  d2 : a.d2.toNat < n
  d3 : a.d3.toNat < n
  d4 : a.d4.toNat < n

theorem Wide.Below.mono {a : Wide} {n k : Nat} (h : a.Below n) (hk : n ≤ k) : a.Below k := by
  obtain ⟨h0, h1, h2, h3, h4⟩ := h
  constructor <;> omega

/-- The sums of a 28-bit limb and a limb of the block. -/
theorem addBlock_below (h : Limbs) (m : Bytes) (hb : Bool) (hm : m.length = 16) :
    (addBlock h m hb).Below (2 ^ 28 + 2 ^ 26) := by
  obtain ⟨e0, e1, e2, e3, e4⟩ := addBlock_toNat h m hb hm
  have hN := leInt_lt m
  rw [hm] at hN
  have hc := hb.toNat_le
  constructor <;> omega

/-- The block and its hibit are added to the accumulator exactly. -/
theorem addBlock_value (h : Limbs) (m : Bytes) (hb : Bool) (hm : m.length = 16) :
    (addBlock h m hb).value = h.value + leInt m + hb.toNat * 2 ^ 128 := by
  obtain ⟨e0, e1, e2, e3, e4⟩ := addBlock_toNat h m hb hm
  rw [Wide.value, Limbs.value, e0, e1, e2, e3, e4]
  omega

/-- A sum of five partial products, each multiplier at most five times a limb below `n`. -/
theorem sum_of_products_lt {a : Wide} {b n x0 x1 x2 x3 x4 : Nat} (ha : a.Below b) (h0 : x0 < n) (h1 : x1 < n)
    (h2 : x2 < n) (h3 : x3 < n) (h4 : x4 < n) :
    a.d0.toNat * x0 + a.d1.toNat * x1 + a.d2.toNat * x2 + a.d3.toNat * x3 + a.d4.toNat * x4 < 5 * (b * n) := by
  have := Nat.mul_lt_mul'' ha.d0 h0
  have := Nat.mul_lt_mul'' ha.d1 h1
  have := Nat.mul_lt_mul'' ha.d2 h2
  have := Nat.mul_lt_mul'' ha.d3 h3
  have := Nat.mul_lt_mul'' ha.d4 h4
  omega

/-- The bound of the product sums, for a multiplier whose limbs lie below `n`. -/
theorem mulR_below {a : Wide} {r : Limbs} {b n : Nat} (ha : a.Below b) (hb : b ≤ 2 ^ 29) (h0 : r.l0.toNat < n)
    (h1 : r.l1.toNat < n) (h2 : r.l2.toNat < n) (h3 : r.l3.toNat < n) (h4 : r.l4.toNat < n) :
    (mulR a r).Below (5 * (b * (5 * n))) := by
  obtain ⟨b0, b1, b2, b3, b4⟩ := ha.mono hb
  obtain ⟨e0, e1, e2, e3, e4⟩ := mulR_toNat a r b0 b1 b2 b3 b4
  constructor
  · rw [e0]; apply sum_of_products_lt ha <;> omega
  · rw [e1]; apply sum_of_products_lt ha <;> omega
  · rw [e2]; apply sum_of_products_lt ha <;> omega
  · rw [e3]; apply sum_of_products_lt ha <;> omega
  · rw [e4]; apply sum_of_products_lt ha <;> omega

/-- The product sums stand for the product up to a multiple of p: a term of weight 2^130 and above comes back with
the factor 5 (R110). -/
theorem mulR_value (a : Wide) (r : Limbs) (ha : a.Below (2 ^ 29)) :
    ∃ q, (mulR a r).value + q * primeP = a.value * r.value := by
  obtain ⟨e0, e1, e2, e3, e4⟩ := mulR_toNat a r ha.d0 ha.d1 ha.d2 ha.d3 ha.d4
  refine ⟨a.d1.toNat * r.l4.toNat + a.d2.toNat * r.l3.toNat + a.d3.toNat * r.l2.toNat + a.d4.toNat * r.l1.toNat
    + (a.d2.toNat * r.l4.toNat + a.d3.toNat * r.l3.toNat + a.d4.toNat * r.l2.toNat) * 2 ^ 26
    + (a.d3.toNat * r.l4.toNat + a.d4.toNat * r.l3.toNat) * 2 ^ 52 + a.d4.toNat * r.l4.toNat * 2 ^ 78, ?_⟩
  rw [Wide.value, e0, e1, e2, e3, e4, Wide.value, Limbs.value, primeP]
  ring

/-- BLOCK's accumulator: the limb bounds and the value (R113). -/
theorem block_tight_and_value (h r : Limbs) (m : Bytes) (hb : Bool) (hm : m.length = 16) :
    (block h r m hb).Tight
      ∧ (block h r m hb).value % primeP = ((h.value + leInt m + hb.toNat * 2 ^ 128) * r.value) % primeP := by
  have ha := addBlock_below h m hb hm
  have hd := mulR_below ha (by norm_num) r.l0.isLt r.l1.isLt r.l2.isLt r.l3.isLt r.l4.isLt
  obtain ⟨d0, d1, d2, d3, d4⟩ := hd.mono (k := 2 ^ 63) (by norm_num)
  obtain ⟨ht, c, hc⟩ := carryLimbs_value (mulR (addBlock h m hb) r) d0 d1 d2 d3 d4
  obtain ⟨q, hq⟩ := mulR_value (addBlock h m hb) r (ha.mono (by norm_num))
  refine ⟨ht, ?_⟩
  rw [← addBlock_value h m hb hm, ← hq, Wide.value, ← hc, block, Nat.add_mul_mod_self_right,
    Nat.add_mul_mod_self_right]

theorem block_tight (h r : Limbs) {m : Bytes} (hb : Bool) (hm : m.length = 16) : (block h r m hb).Tight :=
  (block_tight_and_value h r m hb hm).1

theorem block_value (h r : Limbs) {m : Bytes} (hb : Bool) (hm : m.length = 16) :
    (block h r m hb).value % primeP = ((h.value + leInt m + hb.toNat * 2 ^ 128) * r.value) % primeP :=
  (block_tight_and_value h r m hb hm).2

theorem Limbs.Below26.toNat_lt {r : Limbs} (hr : r.Below26) {x : Limb} (hx : x ∈ [r.l0, r.l1, r.l2, r.l3, r.l4]) :
    x.toNat < 2 ^ 26 := by
  obtain ⟨h0, h1, h2, h3, h4⟩ := hr
  simp only [List.mem_cons, List.not_mem_nil, or_false] at hx
  rcases hx with rfl | rfl | rfl | rfl | rfl <;> assumption

theorem Wide.Below.toNat_lt {a : Wide} {n : Nat} (ha : a.Below n) {x : BitVec 64}
    (hx : x ∈ [a.d0, a.d1, a.d2, a.d3, a.d4]) : x.toNat < n := by
  obtain ⟨h0, h1, h2, h3, h4⟩ := ha
  simp only [List.mem_cons, List.not_mem_nil, or_false] at hx
  rcases hx with rfl | rfl | rfl | rfl | rfl <;> assumption

/-- The bound of one partial product, with a limb of r or of 5·r (R113). -/
theorem partial_product_lt {a x : Nat} (ha : a < 2 ^ 28 + 2 ^ 26) (hx : x < 2 ^ 26) :
    a * x < 2 ^ 57 ∧ a * (5 * x) < 2 ^ 57 := by
  have h5 := Nat.mul_lt_mul'' ha (show 5 * x < 5 * 2 ^ 26 by omega)
  have h1 := Nat.mul_lt_mul'' ha hx
  omega

/-- Settles O11: the carry chain keeps the product's value up to a multiple of p, and the block's sums stay below
2^28 + 2^26, which bounds every product. -/
theorem blockValueLaw : Obligations.BlockValueLaw := by
  unfold Obligations.BlockValueLaw
  intro h r m hb hm
  refine ⟨block_value h r hb hm, block_tight h r hb hm, fun hr => ?_⟩
  have ha := addBlock_below h m hb hm
  obtain ⟨b0, b1, b2, b3, b4⟩ := ha.mono (k := 2 ^ 29) (by norm_num)
  obtain ⟨e0, e1, e2, e3, e4⟩ := mulR_toNat (addBlock h m hb) r b0 b1 b2 b3 b4
  have hd : (mulR (addBlock h m hb) r).Below (2 ^ 60) :=
    (mulR_below ha (by norm_num) hr.l0 hr.l1 hr.l2 hr.l3 hr.l4).mono (by norm_num)
  exact ⟨fun a hmem x hx => partial_product_lt (ha.toNat_lt hmem) (hr.toNat_lt hx), fun d hmem => hd.toNat_lt hmem,
    e0, e1, e2, e3, e4⟩

/-! ## LOAD_KEY (R111) -/

/-- AND works on the digits of a radix 2^k by themselves. -/
theorem land_eq_low_add_high (a b k : Nat) :
    a &&& b = (a % 2 ^ k &&& b % 2 ^ k) + (a / 2 ^ k &&& b / 2 ^ k) * 2 ^ k := by
  rw [← Nat.and_mod_two_pow, ← Nat.and_div_two_pow, Nat.mul_comm, Nat.mod_add_div]

/-- A limb of the clamped multiplier: the word's low 26 bits under the limb's mask. -/
theorem clampedLimb_toNat (x mask : Word) (hmask : mask.toNat < 2 ^ 26) :
    ((x &&& mask).setWidth 28).toNat = x.toNat % 2 ^ 26 &&& mask.toNat := by
  have hle : x.toNat &&& mask.toNat ≤ mask.toNat := Nat.and_le_right
  have hand : x.toNat % 2 ^ 26 &&& mask.toNat = x.toNat &&& mask.toNat := by
    rw [← Nat.mod_eq_of_lt (a := x.toNat &&& mask.toNat) (b := 2 ^ 26) (by omega), Nat.and_mod_two_pow,
      Nat.mod_eq_of_lt hmask]
  rw [BitVec.toNat_setWidth, BitVec.toNat_and, hand, Nat.mod_eq_of_lt (by omega)]

/-- The limbs that LOAD_KEY loads: the 26-bit digits of R's 16 bytes, each under its part of the clamp. -/
theorem loadR_toNat (k : Bytes) :
    (loadR k).l0.toNat = leInt (slice k 0 16) % 2 ^ 26 &&& 0x3ffffff
      ∧ (loadR k).l1.toNat = leInt (slice k 0 16) / 2 ^ 26 % 2 ^ 26 &&& 0x3ffff03
      ∧ (loadR k).l2.toNat = leInt (slice k 0 16) / 2 ^ 52 % 2 ^ 26 &&& 0x3ffc0ff
      ∧ (loadR k).l3.toNat = leInt (slice k 0 16) / 2 ^ 78 % 2 ^ 26 &&& 0x3f03fff
      ∧ (loadR k).l4.toNat = leInt (slice k 0 16) / 2 ^ 104 &&& 0x00fffff := by
  simp only [loadR]
  rw [clampedLimb_toNat _ _ (by decide), clampedLimb_toNat _ _ (by decide), clampedLimb_toNat _ _ (by decide),
    clampedLimb_toNat _ _ (by decide), clampedLimb_toNat _ _ (by decide)]
  simp only [BitVec.toNat_ushiftRight, Nat.shiftRight_eq_div_pow, le32_toNat, leInt_slice, BitVec.toNat_ofNat]
  refine ⟨?_, ?_, ?_, ?_, ?_⟩ <;> congr 1 <;> omega

theorem loadR_below26 (k : Bytes) : (loadR k).Below26 := by
  obtain ⟨h0, h1, h2, h3, h4⟩ := loadR_toNat k
  exact ⟨h0 ▸ Nat.and_lt_two_pow _ (by norm_num), h1 ▸ Nat.and_lt_two_pow _ (by norm_num),
    h2 ▸ Nat.and_lt_two_pow _ (by norm_num), h3 ▸ Nat.and_lt_two_pow _ (by norm_num),
    h4 ▸ Nat.and_lt_two_pow _ (by norm_num)⟩

/-- LOAD_KEY loads the clamped multiplier of R12. -/
theorem loadR_value (k : Bytes) : (loadR k).value = keyMultiplier k := by
  obtain ⟨h0, h1, h2, h3, h4⟩ := loadR_toNat k
  rw [Limbs.value, h0, h1, h2, h3, h4, keyMultiplier, clampMask]
  generalize leInt (slice k 0 16) = n
  rw [land_eq_low_add_high n _ 26, land_eq_low_add_high (n / 2 ^ 26) _ 26,
    land_eq_low_add_high (n / 2 ^ 26 / 2 ^ 26) _ 26, land_eq_low_add_high (n / 2 ^ 26 / 2 ^ 26 / 2 ^ 26) _ 26]
  simp only [Nat.div_div_eq_div_mul]
  norm_num
  ring

/-- LOAD_KEY loads the last 16 bytes of the key as the mask. -/
theorem loadS_value (k : Bytes) : maskValue (loadS k) = leInt (slice k 16 32) := by
  simp only [maskValue, loadS, Vector.getElem_ofFn, le32_toNat, leInt_slice]
  omega

/-! ## FULL_REDUCE (R114) -/

/-- The value of five 32-bit transients. -/
def Narrow.value (n : Narrow) : Nat :=
  n.n0.toNat + n.n1.toNat * 2 ^ 26 + n.n2.toNat * 2 ^ 52 + n.n3.toNat * 2 ^ 78 + n.n4.toNat * 2 ^ 104

/-- What the full carry leaves: limbs below 2^26, but for a limb 1 of exactly 2^26, which leaves the limbs above it
zero. -/
structure Narrow.Carried (n : Narrow) : Prop where
  n0 : n.n0.toNat < 2 ^ 26
  n1 : n.n1.toNat < 2 ^ 26 ∨ (n.n1.toNat = 2 ^ 26 ∧ n.n2.toNat = 0 ∧ n.n3.toNat = 0 ∧ n.n4.toNat = 0)
  n2 : n.n2.toNat < 2 ^ 26
  n3 : n.n3.toNat < 2 ^ 26
  n4 : n.n4.toNat < 2 ^ 26

/-- A carry into the next word, when the sum fits. -/
theorem add_shiftRight_toNat (x y : Word) (h : x.toNat + y.toNat / 2 ^ 26 < 2 ^ 32) :
    (x + y >>> 26).toNat = x.toNat + y.toNat / 2 ^ 26 := by
  rw [BitVec.toNat_add, BitVec.toNat_ushiftRight, Nat.shiftRight_eq_div_pow, Nat.mod_eq_of_lt h]

/-- The full carry: its limb bounds, and the value up to a multiple of p. -/
theorem fullCarry_value (h : Limbs) (ht : h.Tight) :
    (fullCarry h).Carried ∧ ∃ c, (fullCarry h).value + c * primeP = h.value := by
  obtain ⟨t0, t1, t2, t3, t4⟩ := ht
  have e1 := setWidth32_toNat h.l1
  generalize hx1 : h.l1.setWidth 32 = x1 at e1
  have e2 : (h.l2.setWidth 32 + x1 >>> 26).toNat = h.l2.toNat + x1.toNat / 2 ^ 26 := by
    rw [add_shiftRight_toNat, setWidth32_toNat]; rw [setWidth32_toNat]; omega
  generalize hx2 : h.l2.setWidth 32 + x1 >>> 26 = x2 at e2
  have e3 : (h.l3.setWidth 32 + x2 >>> 26).toNat = h.l3.toNat + x2.toNat / 2 ^ 26 := by
    rw [add_shiftRight_toNat, setWidth32_toNat]; rw [setWidth32_toNat]; omega
  generalize hx3 : h.l3.setWidth 32 + x2 >>> 26 = x3 at e3
  have e4 : (h.l4.setWidth 32 + x3 >>> 26).toNat = h.l4.toNat + x3.toNat / 2 ^ 26 := by
    rw [add_shiftRight_toNat, setWidth32_toNat]; rw [setWidth32_toNat]; omega
  generalize hx4 : h.l4.setWidth 32 + x3 >>> 26 = x4 at e4
  have e0 : (h.l0.setWidth 32 + 5#32 * (x4 >>> 26)).toNat = h.l0.toNat + 5 * (x4.toNat / 2 ^ 26) := by
    rw [BitVec.toNat_add, BitVec.toNat_mul, setWidth32_toNat, BitVec.toNat_ushiftRight, Nat.shiftRight_eq_div_pow,
      BitVec.toNat_ofNat]; omega
  generalize hx0 : h.l0.setWidth 32 + 5#32 * (x4 >>> 26) = x0 at e0
  have v0 : (fullCarry h).n0.toNat = x0.toNat % 2 ^ 26 := by
    simp only [fullCarry, hx1, hx2, hx3, hx4, hx0, and_m26_word_toNat]
  have v1 : (fullCarry h).n1.toNat = x1.toNat % 2 ^ 26 + x0.toNat / 2 ^ 26 := by
    simp only [fullCarry, hx1, hx2, hx3, hx4, hx0]
    rw [add_shiftRight_toNat, and_m26_word_toNat]; rw [and_m26_word_toNat]; omega
  have v2 : (fullCarry h).n2.toNat = x2.toNat % 2 ^ 26 := by
    simp only [fullCarry, hx1, hx2, and_m26_word_toNat]
  have v3 : (fullCarry h).n3.toNat = x3.toNat % 2 ^ 26 := by
    simp only [fullCarry, hx1, hx2, hx3, and_m26_word_toNat]
  have v4 : (fullCarry h).n4.toNat = x4.toNat % 2 ^ 26 := by
    simp only [fullCarry, hx1, hx2, hx3, hx4, and_m26_word_toNat]
  refine ⟨⟨by omega, by omega, by omega, by omega, by omega⟩, x4.toNat / 2 ^ 26, ?_⟩
  rw [Narrow.value, Limbs.value, v0, v1, v2, v3, v4, primeP]
  omega

theorem Narrow.Carried.value_lt {n : Narrow} (hn : n.Carried) : n.value < 2 ^ 130 := by
  obtain ⟨h0, h1, h2, h3, h4⟩ := hn
  rw [value]
  omega

/-- g = h + 5 − 2^130: its top bit is clear exactly when H ≥ p, and then it is H − p with limbs below 2^26. -/
theorem plusFive_value {n : Narrow} (hn : n.Carried) :
    (n.value < primeP → 2 ^ 31 ≤ (plusFive n).n4.toNat)
      ∧ (primeP ≤ n.value → (plusFive n).Carried ∧ (plusFive n).value + primeP = n.value) := by
  obtain ⟨h0, h1, h2, h3, h4⟩ := hn
  have e0 : (n.n0 + 5#32).toNat = n.n0.toNat + 5 := by
    rw [BitVec.toNat_add, BitVec.toNat_ofNat]; omega
  generalize hx0 : n.n0 + 5#32 = x0 at e0
  have e1 : (n.n1 + x0 >>> 26).toNat = n.n1.toNat + x0.toNat / 2 ^ 26 := add_shiftRight_toNat _ _ (by omega)
  generalize hx1 : n.n1 + x0 >>> 26 = x1 at e1
  have e2 : (n.n2 + x1 >>> 26).toNat = n.n2.toNat + x1.toNat / 2 ^ 26 := add_shiftRight_toNat _ _ (by omega)
  generalize hx2 : n.n2 + x1 >>> 26 = x2 at e2
  have e3 : (n.n3 + x2 >>> 26).toNat = n.n3.toNat + x2.toNat / 2 ^ 26 := add_shiftRight_toNat _ _ (by omega)
  generalize hx3 : n.n3 + x2 >>> 26 = x3 at e3
  have v0 : (plusFive n).n0.toNat = x0.toNat % 2 ^ 26 := by simp only [plusFive, hx0, and_m26_word_toNat]
  have v1 : (plusFive n).n1.toNat = x1.toNat % 2 ^ 26 := by simp only [plusFive, hx0, hx1, and_m26_word_toNat]
  have v2 : (plusFive n).n2.toNat = x2.toNat % 2 ^ 26 := by simp only [plusFive, hx0, hx1, hx2, and_m26_word_toNat]
  have v3 : (plusFive n).n3.toNat = x3.toNat % 2 ^ 26 := by
    simp only [plusFive, hx0, hx1, hx2, hx3, and_m26_word_toNat]
  have v4 : (plusFive n).n4.toNat = (n.n4.toNat + x3.toNat / 2 ^ 26 + (2 ^ 32 - 2 ^ 26)) % 2 ^ 32 := by
    simp only [plusFive, hx0, hx1, hx2, hx3]
    rw [BitVec.toNat_sub, add_shiftRight_toNat _ _ (by omega), BitVec.toNat_ofNat]; omega
  rw [Narrow.value, primeP]
  refine ⟨fun hlt => by omega, fun hge => ⟨⟨by omega, .inl (by omega), by omega, by omega, by omega⟩, ?_⟩⟩
  rw [Narrow.value, v0, v1, v2, v3, v4]
  omega

/-- The top bit of a word, as a number. -/
theorem shiftRight_31_eq (x : Word) : x >>> 31 = if 2 ^ 31 ≤ x.toNat then 1#32 else 0#32 := by
  have := x.isLt
  apply BitVec.eq_of_toNat_eq
  rw [BitVec.toNat_ushiftRight, Nat.shiftRight_eq_div_pow]
  split <;> simp only [BitVec.toNat_ofNat] <;> omega

/-- The select keeps h when g's top bit is set. -/
theorem selectReduced_of_negative (n : Narrow) {g : Narrow} (hg : 2 ^ 31 ≤ g.n4.toNat) : selectReduced n g = n := by
  have hmask : g.n4 >>> 31 - 1#32 = 0#32 := by rw [shiftRight_31_eq, if_pos hg]; rfl
  simp only [selectReduced, hmask, BitVec.not_zero, BitVec.and_allOnes, BitVec.and_zero, BitVec.or_zero]

/-- The select takes g when its top bit is clear. -/
theorem selectReduced_of_nonnegative (n : Narrow) {g : Narrow} (hg : g.n4.toNat < 2 ^ 31) : selectReduced n g = g := by
  have hmask : g.n4 >>> 31 - 1#32 = BitVec.allOnes 32 := by rw [shiftRight_31_eq, if_neg (not_le.2 hg)]; rfl
  simp only [selectReduced, hmask, BitVec.not_allOnes, BitVec.and_zero, BitVec.zero_or, BitVec.and_allOnes]

/-- The words that carried limbs pack into. -/
theorem packWords_of_carried {n : Narrow} (hn : n.Carried) : maskValue (packWords n) = n.value % 2 ^ 128 :=
  packWords_value n hn.n0 hn.n2 hn.n3 (hn.n1.imp_right fun h => ⟨h.1, h.2.1⟩)

/-- FULL_REDUCE's value law (R114): the carry, then one subtraction of p where it is due. -/
theorem fullReduce_value (h : Limbs) (ht : h.Tight) : maskValue (fullReduce h) = h.value % primeP % 2 ^ 128 := by
  obtain ⟨hn, c, hc⟩ := fullCarry_value h ht
  obtain ⟨hneg, hsub⟩ := plusFive_value hn
  rw [← hc, Nat.add_mul_mod_self_right, fullReduce]
  by_cases hlt : (fullCarry h).value < primeP
  · rw [selectReduced_of_negative _ (hneg hlt), packWords_of_carried hn, Nat.mod_eq_of_lt hlt]
  · obtain ⟨hg, hv⟩ := hsub (not_lt.1 hlt)
    have hsmall : (plusFive (fullCarry h)).value < primeP := by
      have := hn.value_lt
      rw [primeP] at hv ⊢
      omega
    rw [selectReduced_of_nonnegative _ (hg.n4.trans (by norm_num)), packWords_of_carried hg, ← hv,
      Nat.add_mod_right, Nat.mod_eq_of_lt hsmall]

/-! ## ADD_MASK (R115) -/

/-- ADD_MASK's value law (R115), read as the number its bytes stand for. -/
theorem addMask_eq (w s : Vector Word 4) : addMask w s = leBytes ((maskValue w + maskValue s) % 2 ^ 128) 16 := by
  refine eq_of_leInt_eq (by simp [addMask]) ?_
  have hw (i : Nat) (hi : i < 4) := w[i].isLt
  have hs (i : Nat) (hi : i < 4) := s[i].isLt
  simp only [addMask, leInt_append, leInt_leBytes, length_leBytes, List.length_append, Nat.shiftRight_eq_div_pow,
    maskValue]
  have := hw 0; have := hw 1; have := hw 2; have := hw 3
  have := hs 0; have := hs 1; have := hs 2; have := hs 3
  omega

end Sys2Proof.Machine

/-! PROOFS: what a stream's unit has absorbed, and the tag it gives (R117, R118, R130). -/

namespace Sys2Proof.Machine

/-! ## The accumulator of R12, block by block -/

theorem macLoop_succ (rr n a : Nat) (m : Bytes) :
    macLoop rr (n + 1) a m = macLoop rr n (((a + blockNumber (m.take 16)) * rr) % primeP) (m.drop 16) := rfl

/-- The last turn of R12's loop. -/
theorem macLoop_succ_append (rr n a : Nat) {m : Bytes} (x : Bytes) (hm : m.length = 16 * n) :
    macLoop rr (n + 1) a (m ++ x) = ((macLoop rr n a m + blockNumber (x.take 16)) * rr) % primeP := by
  induction n generalizing a m with
  | zero =>
    rw [List.eq_nil_of_length_eq_zero hm]
    rfl
  | succ n ih =>
    rw [macLoop_succ rr (n + 1), macLoop_succ rr n a m, List.take_append_of_le_length (by omega),
      List.drop_append_of_le_length (by omega), ih _ (by rw [List.length_drop]; omega)]

/-- One more started block on the accumulator (R12). -/
theorem macAccumulator_append {w y : Bytes} (rr : Nat) (hw : w.length % 16 = 0) (hy : 0 < y.length)
    (hy' : y.length ≤ 16) :
    macAccumulator rr (w ++ y) = ((macAccumulator rr w + blockNumber y) * rr) % primeP := by
  have hn : (w.length + 15) / 16 = w.length / 16 := by omega
  have hn' : ((w ++ y).length + 15) / 16 = w.length / 16 + 1 := by rw [List.length_append]; omega
  rw [macAccumulator, macAccumulator, hn, hn', macLoop_succ_append rr _ 0 y (by omega), List.take_of_length_le hy']

theorem macAccumulator_nil (rr : Nat) : macAccumulator rr [] = 0 := rfl

/-! ## The buffer -/

theorem zeros_zero : zeros 0 = [] := rfl

/-- What a write at the buffer's fill level leaves: the bytes buffered so far, the new ones, and the zero tail. -/
theorem toList_bufWrite {buf : Vector Byte 16} {y x : Bytes} (hbuf : buf.toList = y ++ zeros (16 - y.length))
    (hl : y.length + x.length ≤ 16) :
    (bufWrite buf y.length x).toList = y ++ x ++ zeros (16 - (y ++ x).length) := by
  apply List.ext_getElem (by simp; omega)
  intro i hleft _
  have hi : i < 16 := by simpa using hleft
  have hb : buf[i] = (y ++ zeros (16 - y.length))[i]'(by simp; omega) := by
    simp only [← hbuf, Vector.getElem_toList]
  simp only [bufWrite, Vector.getElem_toList, Vector.getElem_ofFn, hb, List.getElem_append, zeros,
    List.getElem_replicate, List.length_append]
  by_cases hy : i < y.length
  · simp [hy, show ¬y.length ≤ i by omega, show i < y.length + x.length by omega]
  · by_cases hx : i < y.length + x.length
    · simp [hy, hx, show y.length ≤ i by omega, show i - y.length < x.length by omega]
    · simp [hy, hx]

/-! ## A unit between two commands -/

/-- `Absorbed` for a message split into its full blocks `w` and the bytes `y` still buffered. -/
structure Buffered (k w y : Bytes) (u : PolyUnit) : Prop where
  multiplier : u.r.value = keyMultiplier k
  rBound : u.r.Below26
  mask : maskValue u.s = leInt (slice k 16 32)
  leftover : u.leftover.toNat = y.length
  buf : u.buf.toList = y ++ zeros (16 - y.length)
  acc : u.h.value % primeP = macAccumulator (keyMultiplier k) w
  hTight : u.h.Tight

theorem absorbed_append_iff {k w y : Bytes} {u : PolyUnit} (hw : w.length % 16 = 0) (hy : y.length < 16) :
    Absorbed k (w ++ y) u ↔ Buffered k w y u := by
  have hmod : (w ++ y).length % 16 = y.length := by rw [List.length_append]; omega
  have hwhole : (w ++ y).length - y.length = w.length := by simp
  constructor
  · rintro ⟨hr, hr26, hs, hl, hb, ha, ht⟩
    rw [hmod, hwhole, List.drop_left] at hb
    rw [hmod, hwhole, List.take_left] at ha
    exact ⟨hr, hr26, hs, hmod ▸ hl, hb, ha, ht⟩
  · rintro ⟨hr, hr26, hs, hl, hb, ha, ht⟩
    refine ⟨hr, hr26, hs, hmod ▸ hl, ?_, ?_, ht⟩
    · rwa [hmod, hwhole, List.drop_left]
    · rwa [hmod, hwhole, List.take_left]

/-- Every message splits into its full blocks and fewer than 16 bytes. -/
theorem exists_blocks_append (m : Bytes) : ∃ w y : Bytes, m = w ++ y ∧ w.length % 16 = 0 ∧ y.length < 16 :=
  ⟨m.take (m.length - m.length % 16), m.drop (m.length - m.length % 16), (List.take_append_drop _ _).symm,
    by rw [List.length_take]; omega, by rw [List.length_drop]; omega⟩

theorem Limbs.value_zero : Limbs.zero.value = 0 := by decide

theorem Limbs.tight_zero : Limbs.zero.Tight := ⟨by decide, by decide, by decide, by decide, by decide⟩

/-- P_INIT's unit has absorbed nothing (R120). -/
theorem absorbed_initUnit (k : Bytes) : Absorbed k [] (initUnit k) where
  multiplier := loadR_value k
  rBound := loadR_below26 k
  mask := loadS_value k
  leftover := rfl
  buf := rfl
  acc := by rw [show (initUnit k).h.value = 0 from Limbs.value_zero, List.take_nil, macAccumulator_nil, Nat.zero_mod]
  hTight := Limbs.tight_zero

/-! ## ABSORB (R118) -/

/-- Bytes that do not fill the buffer are buffered. -/
theorem Buffered.fill {k w y x : Bytes} {u : PolyUnit} (h : Buffered k w y u) (hl : y.length + x.length < 16) :
    Buffered k w (y ++ x)
      { u with buf := bufWrite u.buf y.length x, leftover := BitVec.ofNat 4 (y.length + x.length) } where
  multiplier := h.multiplier
  rBound := h.rBound
  mask := h.mask
  leftover := by rw [BitVec.toNat_ofNat, List.length_append]; omega
  buf := toList_bufWrite h.buf hl.le
  acc := h.acc
  hTight := h.hTight

/-- The number of a full block carries the hibit that BLOCK adds (R12, R112). -/
theorem blockNumber_of_full {x : Bytes} (hx : x.length = 16) : blockNumber x = leInt x + true.toNat * 2 ^ 128 := by
  rw [blockNumber, hx, Bool.toNat_true, Nat.one_mul]

/-- BLOCK on a block's number is one turn of R12's loop. -/
theorem Buffered.block_acc {k w y z b : Bytes} {u : PolyUnit} {hb : Bool} (h : Buffered k w y u)
    (hw : w.length % 16 = 0) (hz : 0 < z.length) (hz' : z.length ≤ 16) (hlen : b.length = 16)
    (hnum : leInt b + hb.toNat * 2 ^ 128 = blockNumber z) :
    (block u.h u.r b hb).value % primeP = macAccumulator (keyMultiplier k) (w ++ z) := by
  rw [block_value _ _ _ hlen, h.multiplier, Nat.add_assoc, hnum, macAccumulator_append _ hw hz hz', ← h.acc]
  exact ((Nat.mod_modEq _ _).symm.add_right _).mul_right _

/-- A full block, the buffered bytes first, is absorbed and leaves the buffer empty. -/
theorem Buffered.complete {k w y x : Bytes} {u : PolyUnit} (h : Buffered k w y u) (hw : w.length % 16 = 0)
    (hl : y.length + x.length = 16) :
    Buffered k (w ++ (y ++ x)) []
      { u with
        h := block u.h u.r (bufWrite u.buf y.length x).toList true
        buf := Vector.replicate 16 0#8
        leftover := 0#4 } := by
  have hlen : (y ++ x).length = 16 := by rw [List.length_append, hl]
  have hbuf : (bufWrite u.buf y.length x).toList = y ++ x := by
    rw [toList_bufWrite h.buf hl.le, hlen, Nat.sub_self, zeros_zero, List.append_nil]
  rw [hbuf]
  exact {
    multiplier := h.multiplier
    rBound := h.rBound
    mask := h.mask
    leftover := rfl
    buf := rfl
    acc := h.block_acc hw (by omega) hlen.le hlen (blockNumber_of_full hlen).symm
    hTight := block_tight _ _ _ hlen }

/-- A full block on an empty buffer is absorbed. -/
theorem Buffered.fullBlock {k w x : Bytes} {u : PolyUnit} (h : Buffered k w [] u) (hw : w.length % 16 = 0)
    (hx : x.length = 16) : Buffered k (w ++ x) [] { u with h := block u.h u.r x true } :=
  { h with
    acc := h.block_acc hw (by omega) hx.le hx (blockNumber_of_full hx).symm
    hTight := block_tight _ _ _ hx }

/-- ABSORB's loop of full blocks, from an empty buffer. -/
theorem Buffered.absorbBlocks {k w x : Bytes} {u : PolyUnit} {n : Nat} (h : Buffered k w [] u)
    (hw : w.length % 16 = 0) (hn : 16 * n ≤ x.length) :
    Buffered k (w ++ x.take (16 * n)) [] { u with h := (absorbBlocks u.r n u.h x).1 }
      ∧ (Machine.absorbBlocks u.r n u.h x).2 = x.drop (16 * n) := by
  induction n generalizing w x u with
  | zero => exact ⟨by simpa [Machine.absorbBlocks] using h, rfl⟩
  | succ n ih =>
    have hx : (x.take 16).length = 16 := by rw [List.length_take]; omega
    obtain ⟨hb, hrest⟩ := ih (x := x.drop 16) (h.fullBlock hw hx) (by rw [List.length_append, hx]; omega)
      (by rw [List.length_drop]; omega)
    have hmul : 16 * (n + 1) = 16 + 16 * n := by ring
    rw [hmul, List.take_add, ← List.append_assoc, ← List.drop_drop]
    exact ⟨hb, hrest⟩

/-- ABSORB from an empty buffer on: the full blocks, then the rest is buffered. -/
theorem Buffered.absorbRest {k w x : Bytes} {u : PolyUnit} (h : Buffered k w [] u) (hw : w.length % 16 = 0) :
    Absorbed k (w ++ x) (absorbRest u x) := by
  obtain ⟨hb, hrest⟩ := h.absorbBlocks hw (x := x) (n := x.length / 16) (by omega)
  have hw' : (w ++ x.take (16 * (x.length / 16))).length % 16 = 0 := by
    rw [List.length_append, List.length_take]; omega
  have hlen : (x.drop (16 * (x.length / 16))).length < 16 := by rw [List.length_drop]; omega
  have hsplit : w ++ x = w ++ x.take (16 * (x.length / 16)) ++ x.drop (16 * (x.length / 16)) := by
    rw [List.append_assoc, List.take_append_drop]
  rw [hsplit, absorbed_append_iff hw' hlen, Machine.absorbRest]
  simp only [hrest]
  split
  · rename_i hempty
    rw [List.isEmpty_iff.1 hempty]
    exact hb
  · simpa using hb.fill (x := x.drop (16 * (x.length / 16))) (by simpa using hlen)

theorem Buffered.leftover_eq_zero_iff {k w y : Bytes} {u : PolyUnit} (h : Buffered k w y u) :
    u.leftover = 0#4 ↔ y = [] := by
  rw [← BitVec.toNat_inj, h.leftover, BitVec.toNat_ofNat, Nat.zero_mod, List.length_eq_zero_iff]

/-- ABSORB(x) absorbs x (R118). -/
theorem Absorbed.absorb {k m : Bytes} {u : PolyUnit} (h : Absorbed k m u) (x : Bytes) :
    Absorbed k (m ++ x) (absorb u x) := by
  obtain ⟨w, y, rfl, hw, hy⟩ := exists_blocks_append m
  have h := (absorbed_append_iff hw hy).1 h
  rw [Machine.absorb]
  split
  · rename_i hzero
    obtain rfl := h.leftover_eq_zero_iff.1 hzero
    rw [List.append_nil]
    exact h.absorbRest hw
  · rw [h.leftover]
    dsimp only
    split
    · -- x does not fill the buffer
      rename_i hfits
      have hshort : y.length + x.length < 16 := by omega
      rw [Nat.min_eq_right (by omega), List.take_length, List.append_assoc,
        absorbed_append_iff hw (by rw [List.length_append]; exact hshort)]
      exact h.fill hshort
    · -- the first bytes of x complete a block
      rename_i hfull
      have hwant : min (16 - y.length) x.length = 16 - y.length := by omega
      rw [hwant]
      have htake : y.length + (x.take (16 - y.length)).length = 16 := by rw [List.length_take]; omega
      have hrest := (h.complete hw htake).absorbRest (x := x.drop (16 - y.length))
        (by simp only [List.length_append]; omega)
      rwa [List.append_assoc, List.append_assoc, List.take_append_drop, ← List.append_assoc] at hrest

/-! ## The end of a MAC (R130) -/

theorem leInt_zeros (n : Nat) : leInt (zeros n) = 0 := by
  induction n with
  | zero => rfl
  | succ n ih => rw [zeros, List.replicate_succ, leInt, ← zeros, ih]; rfl

/-- The padded block stands for the number of the bytes left over. -/
theorem leInt_padded (y : Bytes) (n : Nat) : leInt (y ++ [0x01#8] ++ zeros n) = blockNumber y := by
  have hone : leInt [0x01#8] = 1 := rfl
  rw [leInt_append, leInt_append, leInt_zeros, hone, blockNumber, Nat.mul_zero, Nat.add_zero, Nat.mul_one, Nat.pow_mul]

/-- The accumulator after the padded block is R12's for the whole message. -/
theorem Absorbed.padFinal_value {k m : Bytes} {u : PolyUnit} (h : Absorbed k m u) :
    (padFinal u).Tight ∧ (padFinal u).value % primeP = macAccumulator (keyMultiplier k) m := by
  obtain ⟨w, y, rfl, hw, hy⟩ := exists_blocks_append m
  have h := (absorbed_append_iff hw hy).1 h
  rw [padFinal]
  split
  · rename_i hzero
    obtain rfl := h.leftover_eq_zero_iff.1 hzero
    exact ⟨h.hTight, by rw [List.append_nil]; exact h.acc⟩
  · rename_i hzero
    have hpos : 0 < y.length := List.length_pos_iff.2 fun hnil => hzero (h.leftover_eq_zero_iff.2 hnil)
    have hbuf := toList_bufWrite (x := [0x01#8]) h.buf hy
    rw [h.leftover, hbuf]
    have hlen : (y ++ [0x01#8] ++ zeros (16 - (y ++ [0x01#8]).length)).length = 16 := by simp; omega
    exact ⟨block_tight _ _ _ hlen, h.block_acc hw hpos hy.le hlen
      (by rw [leInt_padded, Bool.toNat_false, Nat.zero_mul, Nat.add_zero])⟩

/-- P_FINAL's tag is R12's of what the unit has absorbed (R117). -/
theorem Absorbed.finalTag_eq {k m : Bytes} {u : PolyUnit} (h : Absorbed k m u) : finalTag u = poly1305 k m := by
  obtain ⟨ht, hv⟩ := h.padFinal_value
  rw [finalTag, addMask_eq, fullReduce_value _ ht, hv, h.mask, Nat.mod_add_mod, poly1305]

@[simp] theorem length_poly1305 (k m : Bytes) : (poly1305 k m).length = 16 := length_leBytes _ _

/-! ## Streams (R117) -/

/-- Every state of a stream is ACTIVE and has absorbed the strings so far. -/
theorem Streamed.active_and_absorbed {k m : Bytes} {s : State} (h : Streamed k m s) :
    s.pstate = .active ∧ Absorbed k m s.unit := by
  induction h with
  | init hc hk ht =>
    obtain ⟨-, rfl⟩ | ⟨hbad, -⟩ := execPInit_cases ht
    · exact ⟨rfl, hk ▸ absorbed_initUnit _⟩
    · simp [hc] at hbad
  | between _ hu hp ih =>
    obtain ⟨hact, habs⟩ := ih
    exact ⟨hp.trans hact, hu ▸ habs⟩
  | update _ hr ht ih =>
    obtain ⟨hact, habs⟩ := ih
    obtain ⟨hbad, -⟩ | ⟨-, hbad, -⟩ | ⟨-, -, rfl⟩ := execPUpdate_cases ht
    · exact absurd hact hbad
    · simp [hr] at hbad
    · exact ⟨hact, habs.absorb _⟩

/-- P_FINAL's answer from ACTIVE (R130). -/
theorem exec_pFinal_of_active {s : State} (hp : s.pstate = .active) :
    exec .pFinal s
      = .next { s with
          tag := wordsOfBytes 4 (finalTag s.unit), tagv := true, unit := .zero, pstate := .finalized }.finish := by
  simp [exec, execPFinal, hp]

/-- A completion without error after an update that leaves the bookkeeping alone. -/
theorem completedOk_finish {s t : State} (herr : t.err = s.err) (hcode : t.errcode = s.errcode)
    (hirq : t.irqStat.err = s.irqStat.err) : CompletedOk s t.finish :=
  ⟨rfl, rfl, herr, hcode, hirq⟩

/-- Settles O20: a stream's unit has absorbed the message (induction over the stream), so P_FINAL's tag is R12's. -/
theorem streamedTagIsPoly1305 : Obligations.StreamedTagIsPoly1305 := by
  unfold Obligations.StreamedTagIsPoly1305
  intro k m s h
  obtain ⟨hact, habs⟩ := h.active_and_absorbed
  refine ⟨hact, habs, _, exec_pFinal_of_active hact, ?_, rfl, completedOk_finish rfl rfl rfl⟩
  rw [habs.finalTag_eq]
  exact toList_bytesOfWords_wordsOfBytes _ (length_poly1305 k m)

end Sys2Proof.Machine

/-! PROOFS: what the AEAD commands ask of the keystream port and how they then end (R151), and the round trip (R175). -/

namespace Sys2Proof.Machine

/-! ## The port's draws and requests (R150, R151) -/

/-- Of the next `n` draws either none fails or one of them is the first that does. -/
theorem Port.okThrough_or_firstFailAt (p : Port) (n : Nat) : p.OkThrough n ∨ ∃ j, j < n ∧ p.FirstFailAt j := by
  induction n with
  | zero => exact .inl fun j hj => absurd hj (Nat.not_lt_zero j)
  | succ n ih =>
    obtain hok | ⟨j, hj, hfail⟩ := ih
    · cases hd : p.drawAt n with
      | true => exact .inr ⟨n, n.lt_succ_self, hok, hd⟩
      | false => exact .inl fun j hj => (Nat.lt_succ_iff_lt_or_eq.1 hj).elim (hok j) fun he => he ▸ hd
    · exact .inr ⟨j, hj.trans n.lt_succ_self, hfail⟩

section
variable (ks : Keystream) (key : Vector Byte 32) (nonce : Vector Byte 12) {p : Port}

theorem ksReq_zero_of_ok (h : p.draw = false) :
    ksReq ks p key nonce 0
      = (some (ks key nonce 0#32), p.after { key := key, nonce := nonce, ctr := BitVec.ofNat 32 0 }) := by
  simp [ksReq, h]

theorem ksReq_zero_of_fail (h : p.draw = true) :
    ksReq ks p key nonce 0 = (none, p.after { key := key, nonce := nonce, ctr := BitVec.ofNat 32 0 }) := by
  simp [ksReq, h]

/-- The request for counter 0, whatever its answer, is all the port has seen so far. -/
theorem log_after_zero (p : Port) :
    (p.after { key := key, nonce := nonce, ctr := BitVec.ofNat 32 0 }).log = p.log ++ portRequests key nonce 1 :=
  Port.log_after _ _

/-- No draw fails: counter 0 and then the data counters are all requested and answered (R151). -/
theorem requests_of_okThrough {n : Nat} (h : p.OkThrough (n + 1)) :
    ∃ p₁ p', ksReq ks p key nonce 0 = (some (ks key nonce 0#32), p₁)
      ∧ ksBlocks ks key nonce n 1 p₁ = (some (blocksFrom ks key nonce 1 n), p')
      ∧ p'.log = p.log ++ portRequests key nonce (n + 1) := by
  obtain ⟨hd, hrest⟩ := (Port.okThrough_succ { key := key, nonce := nonce, ctr := BitVec.ofNat 32 0 }).1 h
  obtain ⟨p', hb, hl⟩ := ksBlocks_ok ks key nonce n 1 _ hrest
  exact ⟨_, p', ksReq_zero_of_ok ks key nonce hd, hb, by simp [hl, portRequests_succ]⟩

/-- A data counter is the first to fail: the requests stop at it (R151). -/
theorem requests_of_data_fail {n j : Nat} (hj : j < n) (h : p.FirstFailAt (j + 1)) :
    ∃ p₁ p', ksReq ks p key nonce 0 = (some (ks key nonce 0#32), p₁)
      ∧ ksBlocks ks key nonce n 1 p₁ = (none, p')
      ∧ p'.log = p.log ++ portRequests key nonce (j + 1 + 1) := by
  obtain ⟨hd, hrest⟩ := (Port.firstFailAt_succ { key := key, nonce := nonce, ctr := BitVec.ofNat 32 0 }).1 h
  obtain ⟨p', hb, hl⟩ := ksBlocks_fail ks key nonce n 1 j _ hj hrest
  exact ⟨_, p', ksReq_zero_of_ok ks key nonce hd, hb, by simp [hl, portRequests_succ]⟩

end

/-! ## The tag and the output (R152 to R155) -/

/-- The one-shot MAC pass is R12's function of its key and message (R155). -/
theorem polyOneshot_eq (k m : Bytes) : polyOneshot k m = poly1305 k m :=
  ((absorbed_initUnit k).absorb m).finalTag_eq

/-- The tag computed with the block for counter 0 is the expected one (R153, R154). -/
theorem State.aeadTag_eq_expectedTag (s : State) (ct : Bytes) :
    aeadTag (Config.keystream s.keyBytes s.nonceBytes 0#32) s.aadBytes ct = s.expectedTag ct :=
  polyOneshot_eq _ _

/-- A_DECRYPT's comparison holds exactly when REFTAG is the expected tag of the source range (R170). -/
theorem State.ctEq_reftag_iff (s : State) :
    ctEq (aeadTag (Config.keystream s.keyBytes s.nonceBytes 0#32) s.aadBytes s.srcBytes) s.reftagBytes.toList = true
      ↔ s.reftagBytes.toList = s.expectedTag s.srcBytes := by
  rw [aeadTag_eq_expectedTag, ctEq_iff (by simp [expectedTag]), eq_comm]

/-- The output is the source XOR the data blocks, cut to its length (R152). -/
theorem State.cipherOutput_eq (s : State) :
    xorBytes s.srcBytes
        ((blocksFrom Config.keystream s.keyBytes s.nonceBytes 1 (dataBlocks s.srcLen.toNat)).take s.srcLen.toNat)
      = s.cipherOutput := by
  rw [take_blocksFrom, cipherOutput]

@[simp] theorem length_dataKeystream (ks : Keystream) (key : Vector Byte 32) (nonce : Vector Byte 12) (len : Nat) :
    (dataKeystream ks key nonce len).length = len := by
  simp [dataKeystream]

@[simp] theorem State.length_srcBytes (s : State) : s.srcBytes.length = s.srcLen.toNat := s.length_memRead _ _

@[simp] theorem State.length_cipherOutput (s : State) : s.cipherOutput.length = s.srcLen.toNat := by
  simp [cipherOutput]

/-! ## The ends of A_ENCRYPT, by the draws (R160) -/

section
variable {s : State}

theorem exec_aEncrypt_of_okThrough (hp : s.pstate ≠ .active) (ha : s.aeadArgs false = true)
    (h : s.port.OkThrough (dataBlocks s.srcLen.toNat + 1)) :
    ∃ p, exec .aEncrypt s
        = .next (s.encrypted p (Config.keystream s.keyBytes s.nonceBytes 0#32) s.cipherOutput)
      ∧ p.log = s.port.log ++ portRequests s.keyBytes s.nonceBytes (dataBlocks s.srcLen.toNat + 1) := by
  obtain ⟨p₁, p', h0, hd, hl⟩ := requests_of_okThrough Config.keystream s.keyBytes s.nonceBytes h
  refine ⟨p', ?_, hl⟩
  rw [exec_aEncrypt_of_args_pass hp ha, encryptBody_of_ok h0 hd, State.cipherOutput_eq]

theorem exec_aEncrypt_of_firstFailAt {j : Nat} (hp : s.pstate ≠ .active) (ha : s.aeadArgs false = true)
    (hj : j ≤ dataBlocks s.srcLen.toNat) (h : s.port.FirstFailAt j) :
    ∃ p, exec .aEncrypt s = .next (s.encryptFailed p)
      ∧ p.log = s.port.log ++ portRequests s.keyBytes s.nonceBytes (j + 1) := by
  rw [exec_aEncrypt_of_args_pass hp ha]
  cases j with
  | zero =>
    exact ⟨_, encryptBody_of_first_fail (ksReq_zero_of_fail _ _ _ (Port.firstFailAt_zero.1 h)), log_after_zero _ _ _⟩
  | succ j =>
    obtain ⟨p₁, p', h0, hd, hl⟩ := requests_of_data_fail Config.keystream s.keyBytes s.nonceBytes hj h
    exact ⟨p', encryptBody_of_data_fail h0 hd, hl⟩

/-- A_ENCRYPT that ends without error has passed its checks, no draw has failed, and its end is the sealed one. -/
theorem eq_encrypted_of_aEncrypt_ok {t : State} (h : exec .aEncrypt s = .next t) (herr : t.err = false) :
    ∃ p, t = s.encrypted p (Config.keystream s.keyBytes s.nonceBytes 0#32) s.cipherOutput := by
  obtain ⟨-, rfl⟩ | ⟨-, -, rfl⟩ | ⟨hp, ha, -⟩ := encryptWith_cases h
  · simp at herr
  · simp at herr
  · obtain hok | ⟨j, hj, hfail⟩ := s.port.okThrough_or_firstFailAt (dataBlocks s.srcLen.toNat + 1)
    · obtain ⟨p, he, -⟩ := exec_aEncrypt_of_okThrough hp ha hok
      exact ⟨p, Host.Outcome.next.inj (h.symm.trans he)⟩
    · obtain ⟨p, he, -⟩ := exec_aEncrypt_of_firstFailAt hp ha (Nat.le_of_lt_succ hj) hfail
      cases h.symm.trans he
      simp at herr

/-! ## The ends of A_DECRYPT, by the draws and the tags (R170) -/

theorem exec_aDecrypt_of_firstFailAt_zero (hp : s.pstate ≠ .active) (ha : s.aeadArgs true = true)
    (h : s.port.FirstFailAt 0) :
    ∃ p, exec .aDecrypt s = .next (s.decryptFailed p .underlyingPrimitiveFailure)
      ∧ p.log = s.port.log ++ portRequests s.keyBytes s.nonceBytes 1 := by
  rw [exec_aDecrypt_of_args_pass hp ha]
  exact ⟨_, decryptBody_of_first_fail (ksReq_zero_of_fail _ _ _ (Port.firstFailAt_zero.1 h)), log_after_zero _ _ _⟩

theorem exec_aDecrypt_of_mismatch (hp : s.pstate ≠ .active) (ha : s.aeadArgs true = true)
    (h : s.port.drawAt 0 = false) (hm : s.reftagBytes.toList ≠ s.expectedTag s.srcBytes) :
    ∃ p, exec .aDecrypt s = .next (s.decryptFailed p .authenticationFailure)
      ∧ p.log = s.port.log ++ portRequests s.keyBytes s.nonceBytes 1 := by
  rw [exec_aDecrypt_of_args_pass hp ha]
  have h0 := ksReq_zero_of_ok Config.keystream s.keyBytes s.nonceBytes (s.port.draw_eq_drawAt.trans h)
  exact ⟨_, decryptBody_of_mismatch h0 (Bool.eq_false_iff.2 (mt s.ctEq_reftag_iff.1 hm)), log_after_zero _ _ _⟩

theorem exec_aDecrypt_of_okThrough (hp : s.pstate ≠ .active) (ha : s.aeadArgs true = true)
    (hm : s.reftagBytes.toList = s.expectedTag s.srcBytes)
    (h : s.port.OkThrough (dataBlocks s.srcLen.toNat + 1)) :
    ∃ p, exec .aDecrypt s = .next (s.decrypted p s.cipherOutput)
      ∧ p.log = s.port.log ++ portRequests s.keyBytes s.nonceBytes (dataBlocks s.srcLen.toNat + 1) := by
  obtain ⟨p₁, p', h0, hd, hl⟩ := requests_of_okThrough Config.keystream s.keyBytes s.nonceBytes h
  refine ⟨p', ?_, hl⟩
  rw [exec_aDecrypt_of_args_pass hp ha, decryptBody_of_ok h0 (s.ctEq_reftag_iff.2 hm) hd, State.cipherOutput_eq]

theorem exec_aDecrypt_of_firstFailAt {j : Nat} (hp : s.pstate ≠ .active) (ha : s.aeadArgs true = true)
    (hm : s.reftagBytes.toList = s.expectedTag s.srcBytes) (hj : j ≤ dataBlocks s.srcLen.toNat)
    (h : s.port.FirstFailAt j) :
    ∃ p, exec .aDecrypt s = .next (s.decryptFailed p .underlyingPrimitiveFailure)
      ∧ p.log = s.port.log ++ portRequests s.keyBytes s.nonceBytes (j + 1) := by
  cases j with
  | zero => exact exec_aDecrypt_of_firstFailAt_zero hp ha h
  | succ j =>
    obtain ⟨p₁, p', h0, hd, hl⟩ := requests_of_data_fail Config.keystream s.keyBytes s.nonceBytes hj h
    rw [exec_aDecrypt_of_args_pass hp ha]
    exact ⟨p', decryptBody_of_data_fail h0 (s.ctEq_reftag_iff.2 hm) hd, hl⟩

end

/-! ## The order of the port's requests (R151) -/

/-- The commands other than A_ENCRYPT and A_DECRYPT leave the port alone. -/
theorem exec_port_eq {i : Instr} {s t : State} (he : i ≠ .aEncrypt) (hd : i ≠ .aDecrypt) (h : exec i s = .next t) :
    t.port = s.port := by
  cases i with
  | pInit => obtain ⟨-, rfl⟩ | ⟨-, rfl⟩ := execPInit_cases h <;> simp
  | pUpdate => obtain ⟨-, rfl⟩ | ⟨-, -, rfl⟩ | ⟨-, -, rfl⟩ := execPUpdate_cases h <;> simp
  | pFinal => obtain ⟨-, rfl⟩ | ⟨-, rfl⟩ := execPFinal_cases h <;> simp
  | pVerify => obtain ⟨-, rfl⟩ | ⟨-, -, rfl⟩ | ⟨-, -, rfl⟩ := execPVerify_cases h <;> simp
  | aEncrypt => exact absurd rfl he
  | aDecrypt => exact absurd rfl hd
  | wipe zm => obtain ⟨-, rfl⟩ | ⟨-, rfl⟩ := execWipe_cases h <;> simp

/-- A command that ends in a state holding the port `p` has the port's record of `p`. -/
theorem portLog_of_end {r : Result} {t : State} {l : List PortRequest} {f : Port → State} (hf : ∀ p, (f p).port = p)
    (h : r = .next t) (hend : ∃ p, r = .next (f p) ∧ p.log = l) : t.port.log = l := by
  obtain ⟨p, hr, rfl⟩ := hend
  cases h.symm.trans hr
  rw [hf]

/-- Settles O28: each way A_ENCRYPT and A_DECRYPT can end comes with the requests made before it, and no other
completion touches the port. -/
theorem portRequestOrder : Obligations.PortRequestOrder := by
  unfold Obligations.PortRequestOrder
  refine ⟨fun s t hp ha h => ⟨fun hok => ?_, fun j hj hfail => ?_⟩,
    fun s t hp ha h => ⟨fun hfail => ?_, fun hd hm => ?_, fun hm hok => ?_, fun j hm hj hfail => ?_⟩,
    fun s t => ⟨fun hc h => ?_, fun hc h => ?_⟩, fun i s t he hd h => exec_port_eq he hd h⟩
  · exact portLog_of_end (fun _ => rfl) h (exec_aEncrypt_of_okThrough hp ha hok)
  · exact portLog_of_end (fun _ => rfl) h (exec_aEncrypt_of_firstFailAt hp ha hj hfail)
  · exact portLog_of_end (fun _ => rfl) h (exec_aDecrypt_of_firstFailAt_zero hp ha hfail)
  · exact portLog_of_end (fun _ => rfl) h (exec_aDecrypt_of_mismatch hp ha hd hm)
  · exact portLog_of_end (fun _ => rfl) h (exec_aDecrypt_of_okThrough hp ha hm hok)
  · exact portLog_of_end (fun _ => rfl) h (exec_aDecrypt_of_firstFailAt hp ha hm hj hfail)
  · obtain ⟨e, rfl⟩ := execAEncrypt_of_checks_fail h hc
    rfl
  · obtain ⟨e, rfl⟩ := execADecrypt_of_checks_fail h hc
    rfl

/-! ## The round trip (R175) -/

/-- XOR with the same keystream is an involution (R175). -/
theorem xorBytes_cancel {x k : Bytes} (h : x.length ≤ k.length) : xorBytes (xorBytes x k) k = x := by
  apply List.ext_getElem (by simpa using h)
  intro i _ _
  simp [xorBytes]

/-- Under the same key, nonce and length, a sealed source opens to the source that was sealed (R152). -/
theorem State.cipherOutput_of_srcBytes_eq {s d : State} (hk : d.keyBytes = s.keyBytes)
    (hn : d.nonceBytes = s.nonceBytes) (hsrc : d.srcBytes = s.cipherOutput) : d.cipherOutput = s.srcBytes := by
  have hlen : d.srcLen.toNat = s.srcLen.toNat := by simpa using congrArg List.length hsrc
  rw [cipherOutput, hsrc, hk, hn, hlen]
  exact xorBytes_cancel (by simp)

/-- TAG after A_ENCRYPT is the expected tag of what it wrote (R160). -/
theorem State.tagBytes_encrypted (s : State) (p : Port) (ct : Bytes) :
    (s.encrypted p (Config.keystream s.keyBytes s.nonceBytes 0#32) ct).tagBytes.toList = s.expectedTag ct := by
  rw [← aeadTag_eq_expectedTag]
  exact toList_bytesOfWords_wordsOfBytes _ (by simp [aeadTag_eq_expectedTag, expectedTag])

/-- The expected tag reads the key, the nonce and the associated data of the state only (R153, R154). -/
theorem State.expectedTag_congr {s d : State} (hk : d.keyBytes = s.keyBytes) (hn : d.nonceBytes = s.nonceBytes)
    (haad : d.aadBytes = s.aadBytes) (ct : Bytes) : d.expectedTag ct = s.expectedTag ct := by
  simp only [expectedTag, oneTimeKeyOf, hk, hn, haad]

theorem completedOk_decrypted (s : State) (p : Port) (pt : Bytes) : CompletedOk s (s.decrypted p pt) :=
  ⟨rfl, rfl, rfl, rfl, rfl⟩

/-- Settles O30: an error-free A_ENCRYPT ends sealed, so REFTAG is the tag A_DECRYPT expects, and its XOR undoes the
sealing one. -/
theorem decryptUndoesEncrypt : Obligations.DecryptUndoesEncrypt := by
  unfold Obligations.DecryptUndoesEncrypt
  intro s t d h _ herr hp ha hok hk hn haad hsrc href
  obtain ⟨p, rfl⟩ := eq_encrypted_of_aEncrypt_ok h herr
  rw [State.dstBytes_encrypted s.length_cipherOutput] at hsrc
  have htag : d.reftagBytes.toList = d.expectedTag d.srcBytes := by
    rw [href, State.tagBytes_encrypted, hsrc, State.expectedTag_congr hk hn haad]
  obtain ⟨q, hq, -⟩ := exec_aDecrypt_of_okThrough hp ha htag hok
  have hpt : d.cipherOutput = s.srcBytes := State.cipherOutput_of_srcBytes_eq hk hn hsrc
  exact ⟨_, hq, completedOk_decrypted _ _ _, rfl, (State.dstBytes_decrypted d.length_cipherOutput q).trans hpt⟩

end Sys2Proof.Machine

/-! PROOFS: acceptance of a command word (R180). -/

namespace Sys2Proof.Machine

/-- A host write to a mapped register of a busy engine, IRQ_EN and IRQ_STAT apart, is refused but answered normally
(R71). -/
theorem hostAccess_writeReg_busy {s : State} (hb : s.busy = true) {r : Reg} (hen : r.offset ≠ Reg.irqEn.offset)
    (hstat : r.offset ≠ Reg.irqStat.offset) (v : Word) :
    hostAccess (.write .w32 r.offset v) s
      = .next { s.refuseWrite with responses := s.responses ++ [.writeOk] } := by
  rw [hostAccess_write (s.offset_lt_windowBytes r) (s.legalAccess_offset r), State.busWrite_busy hb,
    State.writeBusy_refused hen hstat]

/-- Settles O7: a write to CMD is `State.refuseWrite` of a busy engine and `State.accept` of an idle one, whatever the
word. -/
theorem acceptanceOfACommandWord : Obligations.AcceptanceOfACommandWord := by
  unfold Obligations.AcceptanceOfACommandWord
  intro s w
  rcases Bool.eq_false_or_eq_true s.busy with hb | hb
  · have hrefused := hostAccess_writeReg_busy (r := .cmd) hb (by decide) (by decide) w
    exact ⟨_, hrefused, fun _ => rfl, fun hidle => absurd (hidle.symm.trans hb) Bool.false_ne_true⟩
  · have haccepted := hostAccess_writeReg hb .cmd w
    exact ⟨_, haccepted, fun hbusy => absurd (hb.symm.trans hbusy) Bool.false_ne_true, fun _ => rfl⟩

end Sys2Proof.Machine

/-! PROOFS: the first check that fails decides the error code (R205). -/

namespace Sys2Proof.Machine

/-! ## The failed checks, as equations: one per row of R205's table -/

theorem exec_pInit_of_key_incomplete {s : State} (hk : s.pkey.complete = false) :
    exec .pInit s = .next (s.consumePkey.finishError .invalidKeyLength) := by
  simp [exec, execPInit, hk]

theorem exec_pUpdate_of_not_active {s : State} (hp : s.pstate ≠ .active) :
    exec .pUpdate s = .next (s.finishError .sequence) := by
  simp [exec, execPUpdate, hp]

theorem exec_pUpdate_of_bad_range {s : State} (hp : s.pstate = .active) (hr : s.srcRangeOk = false) :
    exec .pUpdate s = .next (s.finishError .invalidArgument) := by
  simp [exec, execPUpdate, hp, hr]

theorem exec_pFinal_of_not_active {s : State} (hp : s.pstate ≠ .active) :
    exec .pFinal s = .next (s.finishError .sequence) := by
  simp [exec, execPFinal, hp]

theorem exec_pVerify_of_no_tag {s : State} (hv : s.tagv = false) :
    exec .pVerify s = .next (s.consumeReftag.finishError .sequence) := by
  simp [exec, execPVerify, hv]

theorem exec_pVerify_of_reftag_incomplete {s : State} (hv : s.tagv = true) (hr : s.reftag.complete = false) :
    exec .pVerify s = .next (s.consumeReftag.finishError .invalidArgument) := by
  simp [exec, execPVerify, hv, hr]

theorem exec_aEncrypt_of_active {s : State} (hp : s.pstate = .active) :
    exec .aEncrypt s = .next (s.consumeKeyNonce.finishError .sequence) := by
  simp [exec, execAEncrypt, encryptWith, hp]

theorem exec_aDecrypt_of_active {s : State} (hp : s.pstate = .active) :
    exec .aDecrypt s = .next (s.consumeKeyNonceReftag.finishError .sequence) := by
  simp [exec, execADecrypt, decryptWith, hp]

/-- WIPE has no check to fail (R190). -/
theorem exec_wipe_completes (zm : Bool) (s : State) : ∃ t, exec (.wipe zm) s = .next t ∧ CompletedOk s t := by
  cases zm with
  | false => exact ⟨s.wipeRegisters.finish, rfl, completedOk_finish rfl rfl rfl⟩
  | true => exact ⟨s.wipeRegisters.wipeMbuf.finish, rfl, completedOk_finish rfl rfl rfl⟩

/-! ## Completions with an error -/

/-- An answer that is `State.finishError` is the completion with that error (R181). -/
theorem completesWithError_of_eq {r : Result} {u : State} {e : ErrCode} (h : r = .next (u.finishError e)) :
    ∃ t, r = .next t ∧ CompletedError e t :=
  ⟨_, h, completedError_finishError e u⟩

/-- The same for an end past the checks, known up to the port after its requests. -/
theorem completesWithError_of_end {r : Result} {f : Port → State} {e : ErrCode} {l : List PortRequest}
    (h : ∃ p, r = .next ((f p).finishError e) ∧ p.log = l) : ∃ t, r = .next t ∧ CompletedError e t :=
  h.elim fun _ hp => completesWithError_of_eq hp.1

/-- Settles O10: with the earlier checks passed, each failed check's answer is `State.finishError` with its own code;
the rows stand in the table's order, and WIPE has none. -/
theorem firstFailingCheckDecidesTheCode : Obligations.FirstFailingCheckDecidesTheCode := by
  unfold Obligations.FirstFailingCheckDecidesTheCode
  refine ⟨fun s e hb he => completesWithError_of_eq (engineTurn_of_decode_error hb he),
    fun s => ⟨fun hk => ?pInit, fun hp => ?updateSequence, fun hp hr => ?updateRange, fun hp => ?pFinal,
      fun hv => ?verifySequence, fun hv hr => ?verifyReftag, fun hp => ⟨?encryptSequence, ?decryptSequence⟩,
      fun hp ha => ?encryptArgs, fun hp ha => ?decryptArgs, fun j hp ha hj hfail => ?encryptPort,
      fun hp ha hfail => ?decryptFirstDraw, fun hp ha hd hm => ?decryptMismatch,
      fun j hp ha hm _ hj hfail => ?decryptDataDraw, fun zm => ?wipe⟩⟩
  case pInit => exact completesWithError_of_eq (exec_pInit_of_key_incomplete hk)
  case updateSequence => exact completesWithError_of_eq (exec_pUpdate_of_not_active hp)
  case updateRange => exact completesWithError_of_eq (exec_pUpdate_of_bad_range hp hr)
  case pFinal => exact completesWithError_of_eq (exec_pFinal_of_not_active hp)
  case verifySequence => exact completesWithError_of_eq (exec_pVerify_of_no_tag hv)
  case verifyReftag => exact completesWithError_of_eq (exec_pVerify_of_reftag_incomplete hv hr)
  case encryptSequence => exact completesWithError_of_eq (exec_aEncrypt_of_active hp)
  case decryptSequence => exact completesWithError_of_eq (exec_aDecrypt_of_active hp)
  case encryptArgs => exact completesWithError_of_eq (exec_aEncrypt_of_args_fail hp ha)
  case decryptArgs => exact completesWithError_of_eq (exec_aDecrypt_of_args_fail hp ha)
  case encryptPort => exact completesWithError_of_end (exec_aEncrypt_of_firstFailAt hp ha hj hfail)
  case decryptFirstDraw => exact completesWithError_of_end (exec_aDecrypt_of_firstFailAt_zero hp ha hfail)
  case decryptMismatch => exact completesWithError_of_end (exec_aDecrypt_of_mismatch hp ha hd hm)
  case decryptDataDraw => exact completesWithError_of_end (exec_aDecrypt_of_firstFailAt hp ha hm hj hfail)
  case wipe => exact exec_wipe_completes zm s

end Sys2Proof.Machine

/-! PROOFS: ABSORB is byte-wise absorption, so a stream's unit does not depend on chunking and keeps R36's bounds
(R113, R117, R118). -/

namespace Sys2Proof.Machine

/-! ## The buffer -/

theorem getElem_bufWrite (buf : Vector Byte 16) (start : Nat) (x : Bytes) (k : Nat) (hk : k < 16) :
    (bufWrite buf start x)[k]
      = if start ≤ k ∧ k < start + x.length then x.getD (k - start) 0#8 else buf[k] :=
  Vector.getElem_ofFn _

theorem bufWrite_nil (buf : Vector Byte 16) (start : Nat) : bufWrite buf start [] = buf := by
  refine Vector.ext fun k hk => ?_
  rw [getElem_bufWrite, if_neg (by simp)]

/-- Two writes side by side are one write. -/
theorem bufWrite_bufWrite (buf : Vector Byte 16) (start : Nat) (x y : Bytes) :
    bufWrite (bufWrite buf start x) (start + x.length) y = bufWrite buf start (x ++ y) := by
  refine Vector.ext fun k hk => ?_
  simp only [getElem_bufWrite, List.length_append]
  -- below the two ranges, in the first, in the second or above both
  by_cases hbelow : k < start
  · rw [if_neg (by omega), if_neg (by omega), if_neg (by omega)]
  · by_cases hx : k < start + x.length
    · rw [if_neg (by omega), if_pos (by omega), if_pos (by omega), List.getD_append _ _ _ _ (by omega)]
    · rw [List.getD_append_right _ _ _ _ (by omega), Nat.sub_sub]
      by_cases hy : k < start + x.length + y.length
      · rw [if_pos (by omega), if_pos (by omega)]
      · rw [if_neg (by omega), if_neg (by omega), if_neg (by omega)]

/-- Sixteen bytes fill the whole buffer. -/
theorem toList_bufWrite_full (buf : Vector Byte 16) {x : Bytes} (hx : x.length = 16) :
    (bufWrite buf 0 x).toList = x := by
  apply List.ext_getElem (by simp [hx])
  intro i _ hi
  simp [getElem_bufWrite, show i < x.length from hi]

/-- A write at the fill level keeps the bytes above it zero. -/
theorem getElem_bufWrite_of_le {buf : Vector Byte 16} {start : Nat} {x : Bytes} {k : Nat} (hk : k < 16)
    (h : start + x.length ≤ k) : (bufWrite buf start x)[k] = buf[k] := by
  rw [getElem_bufWrite, if_neg (by omega)]

/-! ## One byte -/

theorem absorbByte_of_full {u : PolyUnit} {b : Byte} (h : u.leftover.toNat = 15) :
    absorbByte u b
      = { u with
          h := block u.h u.r (bufWrite u.buf 15 [b]).toList true
          buf := Vector.replicate 16 0#8
          leftover := 0#4 } := by
  simp [absorbByte, h]

theorem absorbByte_of_not_full {u : PolyUnit} {b : Byte} (h : u.leftover.toNat ≠ 15) :
    absorbByte u b = { u with buf := bufWrite u.buf u.leftover.toNat [b], leftover := u.leftover + 1#4 } := by
  simp [absorbByte, h]

/-- What the unit keeps between commands (R36, R117). -/
structure PolyUnit.Bounded (u : PolyUnit) : Prop where
  hTight : u.h.Tight
  rBound : u.r.Below26
  bufTail : u.TailZero

theorem tailZero_of_empty {u : PolyUnit} (h : u.buf = Vector.replicate 16 0#8) : u.TailZero := by
  intro k hk _
  simp [h]

theorem tailZero_absorbByte {u : PolyUnit} (h : u.TailZero) (b : Byte) : (absorbByte u b).TailZero := by
  by_cases hfull : u.leftover.toNat = 15
  · rw [absorbByte_of_full hfull]
    exact tailZero_of_empty rfl
  · rw [absorbByte_of_not_full hfull]
    intro k hk hle
    have hnext : (u.leftover + 1#4).toNat = u.leftover.toNat + 1 := by
      have := u.leftover.isLt
      rw [BitVec.toNat_add, BitVec.toNat_ofNat]
      omega
    simp only [hnext] at hle
    exact (getElem_bufWrite_of_le hk hle).trans (h k hk (by omega))

theorem PolyUnit.Bounded.absorbByte {u : PolyUnit} (h : u.Bounded) (b : Byte) : (absorbByte u b).Bounded := by
  have htail := tailZero_absorbByte h.bufTail b
  by_cases hfull : u.leftover.toNat = 15
  · rw [absorbByte_of_full hfull] at htail ⊢
    exact ⟨block_tight _ _ _ (by simp), h.rBound, htail⟩
  · rw [absorbByte_of_not_full hfull] at htail ⊢
    exact ⟨h.hTight, h.rBound, htail⟩

theorem tailZero_foldl_absorbByte {u : PolyUnit} (h : u.TailZero) (x : Bytes) : (x.foldl absorbByte u).TailZero := by
  induction x generalizing u with
  | nil => exact h
  | cons b x ih => exact ih (tailZero_absorbByte h b)

theorem PolyUnit.Bounded.foldl_absorbByte {u : PolyUnit} (h : u.Bounded) (x : Bytes) :
    (x.foldl Machine.absorbByte u).Bounded := by
  induction x generalizing u with
  | nil => exact h
  | cons b x ih => exact ih (h.absorbByte b)

/-! ## The bytes of one block -/

/-- Bytes that do not fill the buffer are buffered one after the other. -/
theorem foldl_absorbByte_of_fits (u : PolyUnit) (x : Bytes) (h : u.leftover.toNat + x.length < 16) :
    x.foldl absorbByte u
      = { u with
          buf := bufWrite u.buf u.leftover.toNat x, leftover := BitVec.ofNat 4 (u.leftover.toNat + x.length) } := by
  induction x generalizing u with
  | nil => simp [bufWrite_nil]
  | cons b x ih =>
    rw [List.length_cons] at h
    have hnext : (u.leftover + 1#4).toNat = u.leftover.toNat + 1 := by
      rw [BitVec.toNat_add, BitVec.toNat_ofNat]
      omega
    rw [List.foldl_cons, absorbByte_of_not_full (by omega), ih _ (by simp only [hnext]; omega)]
    simp only [hnext, List.length_cons, PolyUnit.mk.injEq, true_and]
    exact ⟨bufWrite_bufWrite u.buf u.leftover.toNat [b] x, by rw [Nat.add_assoc, Nat.add_comm 1]⟩

/-- The bytes that fill the buffer are one BLOCK. -/
theorem foldl_absorbByte_of_fills (u : PolyUnit) {x : Bytes} (h : u.leftover.toNat + x.length = 16) :
    x.foldl absorbByte u
      = { u with
          h := block u.h u.r (bufWrite u.buf u.leftover.toNat x).toList true
          buf := Vector.replicate 16 0#8
          leftover := 0#4 } := by
  have hpos : x ≠ [] := by
    rintro rfl
    have := u.leftover.isLt
    simp only [List.length_nil] at h
    omega
  obtain ⟨y, b, rfl⟩ := (List.eq_nil_or_concat' x).resolve_left hpos
  rw [List.length_append, List.length_singleton] at h
  have hfull : (BitVec.ofNat 4 (u.leftover.toNat + y.length)).toNat = 15 := by
    rw [BitVec.toNat_ofNat]
    omega
  rw [List.foldl_append, foldl_absorbByte_of_fits u y (by omega), List.foldl_cons, List.foldl_nil,
    absorbByte_of_full hfull]
  simp only [show 15 = u.leftover.toNat + y.length by omega, bufWrite_bufWrite]

/-! ## ABSORB's parts -/

/-- The first full block of ABSORB's loop. -/
theorem absorbRest_of_block (u : PolyUnit) {x : Bytes} (hx : 16 ≤ x.length) :
    absorbRest u x = absorbRest { u with h := block u.h u.r (x.take 16) true } (x.drop 16) := by
  have hn : x.length / 16 = (x.drop 16).length / 16 + 1 := by
    rw [List.length_drop]
    omega
  simp only [absorbRest, hn, absorbBlocks]

theorem absorbRest_of_short (u : PolyUnit) {x : Bytes} (hx : x.length < 16) :
    absorbRest u x
      = if x.isEmpty then u else { u with buf := bufWrite u.buf 0 x, leftover := BitVec.ofNat 4 x.length } := by
  simp only [absorbRest, Nat.div_eq_of_lt hx, absorbBlocks]

/-- ABSORB from an empty buffer on is byte-wise. -/
theorem absorbRest_eq_foldl {u : PolyUnit} {x : Bytes} (hl : u.leftover = 0#4)
    (hb : u.buf = Vector.replicate 16 0#8) : absorbRest u x = x.foldl absorbByte u := by
  by_cases hx : x.length < 16
  · rw [absorbRest_of_short u hx]
    cases x with
    | nil => rfl
    | cons b x => simp [foldl_absorbByte_of_fits u (b :: x) (by simpa [hl] using hx), hl]
  · have htake : (x.take 16).length = 16 := by rw [List.length_take]; omega
    have hfill := foldl_absorbByte_of_fills u (x := x.take 16) (by simpa [hl] using not_lt.1 hx)
    rw [absorbRest_of_block u (not_lt.1 hx),
      absorbRest_eq_foldl (u := { u with h := block u.h u.r (x.take 16) true }) hl hb]
    conv_rhs => rw [← List.take_append_drop 16 x, List.foldl_append, hfill]
    rw [hl, BitVec.toNat_ofNat, Nat.zero_mod, toList_bufWrite_full u.buf htake, ← hb, ← hl]
termination_by x.length
decreasing_by simp; omega

theorem absorb_nil (u : PolyUnit) : absorb u [] = u := by
  rw [absorb]
  split
  · rfl
  · have := u.leftover.isLt
    simp [bufWrite_nil, show u.leftover.toNat < 16 from this]

/-- ABSORB is byte-wise absorption (R118). -/
theorem absorb_eq_foldl {u : PolyUnit} (h : u.TailZero) (x : Bytes) : absorb u x = x.foldl absorbByte u := by
  have hlt := u.leftover.isLt
  rw [absorb]
  split
  · rename_i hempty
    refine absorbRest_eq_foldl hempty ?_
    refine Vector.ext fun k hk => ?_
    rw [h k hk (by simp [hempty]), Vector.getElem_replicate]
  · dsimp only
    split
    · -- x does not fill the buffer
      rename_i hfits
      rw [Nat.min_eq_right (by omega), List.take_length, foldl_absorbByte_of_fits u x (by omega)]
    · -- the first bytes of x complete a block
      rename_i hfull
      have hwant : min (16 - u.leftover.toNat) x.length = 16 - u.leftover.toNat := by omega
      rw [hwant, absorbRest_eq_foldl rfl rfl]
      conv_rhs => rw [← List.take_append_drop (16 - u.leftover.toNat) x, List.foldl_append]
      rw [foldl_absorbByte_of_fills u (by rw [List.length_take]; omega)]

theorem tailZero_absorb {u : PolyUnit} (h : u.TailZero) (x : Bytes) : (absorb u x).TailZero :=
  absorb_eq_foldl h x ▸ tailZero_foldl_absorbByte h x

theorem PolyUnit.Bounded.absorb {u : PolyUnit} (h : u.Bounded) (x : Bytes) : (Machine.absorb u x).Bounded :=
  absorb_eq_foldl h.bufTail x ▸ h.foldl_absorbByte x

/-- Settles O14: both sides are the fold of `absorbByte`, which keeps the buffer's zero tail. -/
theorem absorbIsIndependentOfChunking : Obligations.AbsorbIsIndependentOfChunking := by
  unfold Obligations.AbsorbIsIndependentOfChunking
  intro u x y h
  refine ⟨absorb_eq_foldl h x, ?_⟩
  rw [absorb_eq_foldl (tailZero_absorb h x), absorb_eq_foldl h, absorb_eq_foldl h, List.foldl_append]

end Sys2Proof.Machine

/-! PROOFS: the four MAC commands and the laws of their datapath (R111 to R135, R155). -/

namespace Sys2Proof.Machine

/-! ## The completions without error, as equations -/

theorem exec_pInit_of_key_complete {s : State} (hk : s.pkey.complete = true) :
    exec .pInit s = .next { s with unit := initUnit s.pkeyBytes.toList, pstate := .active }.consumePkey.finish := by
  simp [exec, execPInit, hk]

theorem exec_pUpdate_of_checks_pass {s : State} (hp : s.pstate = .active) (hr : s.srcRangeOk = true) :
    exec .pUpdate s = .next { s with unit := absorb s.unit s.srcBytes }.finish := by
  simp [exec, execPUpdate, hp, hr]

theorem exec_pVerify_of_checks_pass {s : State} (hv : s.tagv = true) (hr : s.reftag.complete = true) :
    exec .pVerify s
      = .next { s with tagMatch := ctEq s.tagBytes.toList s.reftagBytes.toList }.consumeReftag.finish := by
  simp [exec, execPVerify, hv, hr]

/-! ## The datapath's laws -/

/-- Settles O12, by `fullReduce_value`. -/
theorem fullReduceValueLaw : Obligations.FullReduceValueLaw := by
  unfold Obligations.FullReduceValueLaw
  exact fullReduce_value

/-- Settles O13, by `addMask_eq`. -/
theorem addMaskValueLaw : Obligations.AddMaskValueLaw := by
  unfold Obligations.AddMaskValueLaw
  exact addMask_eq

/-- Settles O21: a fresh unit has absorbed nothing, so after the message its tag is R12's. -/
theorem oneShotMacIsPoly1305 : Obligations.OneShotMacIsPoly1305 := by
  unfold Obligations.OneShotMacIsPoly1305
  exact fun k m _ => polyOneshot_eq k m

/-! ## P_INIT -/

/-- Settles O15: the loaded unit is `initUnit`, whose multiplier and mask have the values of R12. -/
theorem pInitLoadsTheClampedKey : Obligations.PInitLoadsTheClampedKey := by
  unfold Obligations.PInitLoadsTheClampedKey
  intro s
  constructor
  · intro hk
    exact ⟨_, exec_pInit_of_key_complete hk, completedOk_finish rfl rfl rfl, rfl, rfl, rfl, rfl, loadR_value _,
      loadR_below26 _, loadS_value _, rfl, rfl, rfl, rfl⟩
  · intro hk
    exact ⟨_, exec_pInit_of_key_incomplete hk, completedError_finishError _ _, rfl, rfl, rfl, rfl, rfl, rfl⟩

/-! ## P_UPDATE -/

theorem rangeOk_iff {size off len : Nat} : rangeOk size off len = true ↔ len = 0 ∨ off + len ≤ size := by
  simp [rangeOk]

/-- SRC_LEN = 0, on the word and on the number. -/
theorem toNat_eq_zero_iff (w : Word) : w.toNat = 0 ↔ w = 0#32 := by
  rw [← BitVec.toNat_inj, BitVec.toNat_ofNat, Nat.zero_mod]

theorem State.srcRangeOk_iff {s : State} :
    s.srcRangeOk = true ↔ s.srcLen = 0#32 ∨ s.srcOff.toNat + s.srcLen.toNat ≤ s.mbufBytes := by
  rw [srcRangeOk, rangeOk_iff, toNat_eq_zero_iff]

/-- Nothing is read from an empty range. -/
theorem State.srcBytes_of_len_zero {s : State} (h : s.srcLen = 0#32) : s.srcBytes = [] :=
  List.eq_nil_of_length_eq_zero (by rw [length_srcBytes, h, BitVec.toNat_ofNat, Nat.zero_mod])

/-- Settles O16: the three answers of P_UPDATE by its two checks; absorbing no bytes changes no unit. -/
theorem pUpdateAbsorbsTheRange : Obligations.PUpdateAbsorbsTheRange := by
  unfold Obligations.PUpdateAbsorbsTheRange
  intro s
  refine ⟨fun hp hr => ?_, exec_pUpdate_of_not_active, fun hp hlen hr => ?_⟩
  · refine ⟨_, exec_pUpdate_of_checks_pass hp (State.srcRangeOk_iff.2 hr), completedOk_finish rfl rfl rfl, rfl, hp,
      rfl, rfl, rfl, fun hlen => ?_⟩
    exact (congrArg (absorb s.unit) (State.srcBytes_of_len_zero hlen)).trans (absorb_nil s.unit)
  · refine exec_pUpdate_of_bad_range hp (Bool.eq_false_iff.2 (mt State.srcRangeOk_iff.1 ?_))
    rintro (hzero | hle)
    · exact hlen hzero
    · omega

/-! ## P_FINAL -/

/-- Settles O17: the two answers of P_FINAL; the tag's bytes laid into TAG's words read back. -/
theorem pFinalOutputsTheTagAndWipes : Obligations.PFinalOutputsTheTagAndWipes := by
  unfold Obligations.PFinalOutputsTheTagAndWipes
  intro s
  refine ⟨fun hp => ⟨_, exec_pFinal_of_active hp, completedOk_finish rfl rfl rfl, rfl, rfl, rfl, rfl, ?_⟩,
    exec_pFinal_of_not_active⟩
  intro k m habs
  rw [habs.finalTag_eq]
  exact toList_bytesOfWords_wordsOfBytes _ (length_poly1305 k m)

/-! ## P_VERIFY -/

theorem completedOk_verified (s : State) (verdict : Bool) :
    CompletedOk s { s with tagMatch := verdict }.consumeReftag.finish :=
  completedOk_finish rfl rfl rfl

/-- Settles O18: the three answers of P_VERIFY by its two checks; MATCH is `ct_eq` of the two tags. -/
theorem pVerifyComparesAllBytes : Obligations.PVerifyComparesAllBytes := by
  unfold Obligations.PVerifyComparesAllBytes
  intro s
  refine ⟨fun hv hr => ?_, exec_pVerify_of_no_tag, exec_pVerify_of_reftag_incomplete⟩
  exact ⟨_, exec_pVerify_of_checks_pass hv hr, completedOk_verified s _,
    ctEq_toList_iff s.tagBytes s.reftagBytes, by simp, by simp, by simpa using hv⟩

end Sys2Proof.Machine

/-! PROOFS: the AEAD commands' checks and their ends: output, tag, wipes and frame (R157 to R170). -/

namespace Sys2Proof.Machine

/-! ## The argument check (R157) -/

/-- R79's overlap of two ranges, as a statement. -/
theorem overlap_iff {a la b lb : Nat} :
    overlap a la b lb = true ↔ 0 < la ∧ 0 < lb ∧ a < b + lb ∧ b < a + la := by
  simp [overlap, and_assoc]

/-- AEAD_ARGS as the conjunction of its checks. -/
theorem State.aeadArgs_iff {s : State} {needsRef : Bool} :
    s.aeadArgs needsRef = true ↔
      (s.key.complete = true ∧ s.nonce.complete = true)
      ∧ (needsRef = true → s.reftag.complete = true)
      ∧ rangeOk s.mbufBytes s.srcOff.toNat s.srcLen.toNat = true
      ∧ rangeOk s.mbufBytes s.aadOff.toNat s.aadLen.toNat = true
      ∧ rangeOk s.mbufBytes s.dstOff.toNat s.srcLen.toNat = true
      ∧ ¬(overlap s.srcOff.toNat s.srcLen.toNat s.dstOff.toNat s.srcLen.toNat = true ∧ s.srcOff ≠ s.dstOff)
      ∧ ¬overlap s.aadOff.toNat s.aadLen.toNat s.dstOff.toNat s.srcLen.toNat = true := by
  have href : (!needsRef || s.reftag.complete) = true ↔ (needsRef = true → s.reftag.complete = true) := by
    cases needsRef <;> simp
  simp only [aeadArgs, Bool.and_eq_true, Bool.not_eq_true', ← Bool.not_eq_true, bne_iff_ne, href, and_assoc]

theorem State.dstRange_of_aeadArgs {s : State} {needsRef : Bool} (h : s.aeadArgs needsRef = true) :
    rangeOk s.mbufBytes s.dstOff.toNat s.srcLen.toNat = true := by
  obtain ⟨-, -, -, -, hdst, -⟩ := aeadArgs_iff.1 h
  exact hdst

/-- Settles O22: each check of AEAD_ARGS, read on numbers. -/
theorem aeadArgumentConditions : Obligations.AeadArgumentConditions := by
  unfold Obligations.AeadArgumentConditions
  intro s needsRef
  simp only [State.aeadArgs_iff, InputSet.complete_iff, rangeOk_iff, overlap_iff, and_assoc, and_self_left]
  -- what is left is `BitVec.allOnes` against the statement's literals
  rfl

/-- Settles O29: a failed check's answer is the consumption of the input sets and the error's bookkeeping. -/
theorem aeadCheckFailuresOnlyConsume : Obligations.AeadCheckFailuresOnlyConsume := by
  unfold Obligations.AeadCheckFailuresOnlyConsume
  exact fun s => ⟨fun hp => ⟨exec_aEncrypt_of_active hp, exec_aDecrypt_of_active hp⟩,
    exec_aEncrypt_of_args_fail, exec_aDecrypt_of_args_fail⟩

/-! ## What the ends leave of MBUF -/

/-- A write of at most `n` bytes at `off` leaves every byte outside [off, off + n) as it was. -/
theorem sameMbufOutside_of_mbuf_eq {s t : State} {off n : Nat} {x : Bytes} (hm : t.mbuf = Memory.write s.mbuf off x)
    (he : t.mbufEpoch = s.mbufEpoch) (hl : x.length ≤ n) : SameMbufOutside off n s t := by
  intro o ho
  have hread : t.readByte o = (s.memWrite off x).readByte o := by
    simp only [State.readByte, hm, he, State.memWrite_mbuf, State.memWrite_mbufEpoch]
  rw [hread, State.readByte_memWrite, if_neg (by omega)]

section
variable (s : State) (p : Port)

theorem sameMbufOutside_encryptFailed : SameMbufOutside s.dstOff.toNat s.srcLen.toNat s (s.encryptFailed p) :=
  sameMbufOutside_of_mbuf_eq rfl rfl (length_zeros _).le

theorem sameMbufOutside_encrypted (b0 : Vector Byte 64) {ct : Bytes} (hl : ct.length ≤ s.srcLen.toNat) :
    SameMbufOutside s.dstOff.toNat s.srcLen.toNat s (s.encrypted p b0 ct) :=
  sameMbufOutside_of_mbuf_eq rfl rfl hl

theorem sameMbufOutside_decryptFailed (e : ErrCode) :
    SameMbufOutside s.dstOff.toNat s.srcLen.toNat s (s.decryptFailed p e) :=
  sameMbufOutside_of_mbuf_eq rfl rfl (length_zeros _).le

theorem sameMbufOutside_decrypted {pt : Bytes} (hl : pt.length ≤ s.srcLen.toNat) :
    SameMbufOutside s.dstOff.toNat s.srcLen.toNat s (s.decrypted p pt) :=
  sameMbufOutside_of_mbuf_eq rfl rfl hl

end

/-! ## A_ENCRYPT (R160) -/

/-- Settles O23: with no failing draw A_ENCRYPT ends sealed. -/
theorem encryptSealsThePlaintext : Obligations.EncryptSealsThePlaintext := by
  unfold Obligations.EncryptSealsThePlaintext
  intro s hp ha hok
  obtain ⟨p, hexec, -⟩ := exec_aEncrypt_of_okThrough hp ha hok
  exact ⟨_, hexec, completedOk_encrypted _ _ _ _, State.dstBytes_encrypted s.length_cipherOutput _ _,
    s.tagBytes_encrypted p _, rfl, rfl, rfl, rfl, rfl, rfl,
    sameMbufOutside_encrypted _ _ _ s.length_cipherOutput.le⟩

/-- Settles O24: whichever draw fails first, A_ENCRYPT ends at its label UPF. -/
theorem encryptPortFailureZeroesTheOutput : Obligations.EncryptPortFailureZeroesTheOutput := by
  unfold Obligations.EncryptPortFailureZeroesTheOutput
  intro s j hp ha hj hfail
  obtain ⟨p, hexec, -⟩ := exec_aEncrypt_of_firstFailAt hp ha hj hfail
  exact ⟨_, hexec, completedError_finishError _ _, s.dstBytes_encryptFailed p, rfl, rfl, rfl, rfl, rfl, rfl, rfl,
    sameMbufOutside_encryptFailed s p⟩

/-! ## A_DECRYPT (R170) -/

/-- Settles O25: with the tags equal and no failing draw A_DECRYPT ends opened. -/
theorem decryptOpensAnAuthenticCiphertext : Obligations.DecryptOpensAnAuthenticCiphertext := by
  unfold Obligations.DecryptOpensAnAuthenticCiphertext
  intro s hp ha hok hm
  obtain ⟨p, hexec, -⟩ := exec_aDecrypt_of_okThrough hp ha hm hok
  exact ⟨_, hexec, completedOk_decrypted _ _ _, rfl, State.dstBytes_decrypted s.length_cipherOutput _, rfl, rfl, rfl,
    rfl, rfl, rfl, rfl, sameMbufOutside_decrypted _ _ s.length_cipherOutput.le⟩

/-- Settles O26: with the tags different A_DECRYPT ends after the request for counter 0. -/
theorem decryptRejectsAForgedCiphertext : Obligations.DecryptRejectsAForgedCiphertext := by
  unfold Obligations.DecryptRejectsAForgedCiphertext
  intro s hp ha hd hm
  obtain ⟨p, hexec, hlog⟩ := exec_aDecrypt_of_mismatch hp ha hd hm
  exact ⟨_, hexec, completedError_finishError _ _, rfl, s.dstBytes_decryptFailed p _, rfl, rfl, rfl, rfl, rfl, rfl,
    rfl, hlog, sameMbufOutside_decryptFailed s p _⟩

/-- Settles O27: A_DECRYPT ends at its label UPF when counter 0 fails, or a data counter after a match. -/
theorem decryptPortFailureZeroesTheOutput : Obligations.DecryptPortFailureZeroesTheOutput := by
  unfold Obligations.DecryptPortFailureZeroesTheOutput
  intro s j hp ha hj hfail hreached
  have hend : ∃ p, exec .aDecrypt s = .next (s.decryptFailed p .underlyingPrimitiveFailure) := by
    rcases hreached with rfl | hm
    · exact (exec_aDecrypt_of_firstFailAt_zero hp ha hfail).imp fun _ h => h.1
    · exact (exec_aDecrypt_of_firstFailAt hp ha hm hj hfail).imp fun _ h => h.1
  obtain ⟨p, hexec⟩ := hend
  exact ⟨_, hexec, completedError_finishError _ _, rfl, s.dstBytes_decryptFailed p _, rfl, rfl, rfl, rfl, rfl, rfl,
    rfl, sameMbufOutside_decryptFailed s p _⟩

end Sys2Proof.Machine

/-! PROOFS: the frames of the commands: what each leaves unchanged (R190, R195), the keystream port among it. -/

namespace Sys2Proof.Machine

/-! ## The control registers -/

theorem sameControl_execPInit {s t : State} (h : execPInit s = .next t) : SameControl s t := by
  obtain ⟨-, rfl⟩ | ⟨-, rfl⟩ := execPInit_cases h <;> constructor <;> rfl

theorem sameControl_execPUpdate {s t : State} (h : execPUpdate s = .next t) : SameControl s t := by
  obtain ⟨-, rfl⟩ | ⟨-, -, rfl⟩ | ⟨-, -, rfl⟩ := execPUpdate_cases h <;> constructor <;> rfl

theorem sameControl_execPFinal {s t : State} (h : execPFinal s = .next t) : SameControl s t := by
  obtain ⟨-, rfl⟩ | ⟨-, rfl⟩ := execPFinal_cases h <;> constructor <;> rfl

theorem sameControl_execPVerify {s t : State} (h : execPVerify s = .next t) : SameControl s t := by
  obtain ⟨-, rfl⟩ | ⟨-, -, rfl⟩ | ⟨-, -, rfl⟩ := execPVerify_cases h <;> constructor <;> simp

theorem sameControl_execAEncrypt {s t : State} (h : execAEncrypt s = .next t) : SameControl s t := by
  obtain ⟨-, rfl⟩ | ⟨-, -, rfl⟩ | ⟨-, -, ⟨p, rfl⟩ | ⟨p, b0, ct, -, rfl⟩⟩ := encryptWith_cases h <;>
    constructor <;> rfl

theorem sameControl_execADecrypt {s t : State} (h : execADecrypt s = .next t) : SameControl s t := by
  obtain ⟨-, rfl⟩ | ⟨-, -, rfl⟩ | ⟨-, -, ⟨p, rfl⟩ | ⟨p, rfl⟩ | ⟨p, pt, -, rfl⟩⟩ := decryptWith_cases h <;>
    constructor <;> rfl

theorem sameControl_execWipe {zm : Bool} {s t : State} (h : execWipe zm s = .next t) : SameControl s t := by
  obtain ⟨-, rfl⟩ | ⟨-, rfl⟩ := execWipe_cases h <;> constructor <;> rfl

/-- No command writes the control registers (R195). -/
theorem exec_sameControl {i : Instr} {s t : State} (h : exec i s = .next t) : SameControl s t := by
  cases i with
  | pInit => exact sameControl_execPInit h
  | pUpdate => exact sameControl_execPUpdate h
  | pFinal => exact sameControl_execPFinal h
  | pVerify => exact sameControl_execPVerify h
  | aEncrypt => exact sameControl_execAEncrypt h
  | aDecrypt => exact sameControl_execADecrypt h
  | wipe zm => exact sameControl_execWipe h

/-- Settles O33, command by command. -/
theorem noCommandWritesTheControlRegisters : Obligations.NoCommandWritesTheControlRegisters := by
  unfold Obligations.NoCommandWritesTheControlRegisters
  exact fun i s t h => exec_sameControl h

/-! ## WIPE (R190) -/

/-- A write leaves the cells below its range. -/
theorem Memory.filter_below_write (m : Memory) (off : Nat) (x : Bytes) :
    (Memory.write m off x).filter (fun c => c.1 < off) = m.filter (fun c => c.1 < off) := by
  have hcells : (cellsFrom off x).filter (fun c => c.1 < off) = [] := List.filter_eq_nil_iff.2 fun c hc => by
    have := mem_cellsFrom hc
    simp only [decide_eq_true_eq]
    omega
  have habove : (m.filter fun c => off + x.length ≤ c.1).filter (fun c => c.1 < off) = [] :=
    List.filter_eq_nil_iff.2 fun c hc => by
      have := (List.mem_filter.1 hc).2
      simp only [decide_eq_true_eq] at this ⊢
      omega
  rw [write, List.filter_append, List.filter_append, hcells, habove, List.filter_filter]
  simp only [Bool.and_self, List.append_nil]

/-- A write leaves the cells above its range. -/
theorem Memory.filter_above_write (m : Memory) (off : Nat) (x : Bytes) :
    (Memory.write m off x).filter (fun c => off + x.length ≤ c.1) = m.filter (fun c => off + x.length ≤ c.1) := by
  have hbelow : (m.filter fun c => c.1 < off).filter (fun c => off + x.length ≤ c.1) = [] :=
    List.filter_eq_nil_iff.2 fun c hc => by
      have := (List.mem_filter.1 hc).2
      simp only [decide_eq_true_eq] at this ⊢
      omega
  have hcells : (cellsFrom off x).filter (fun c => off + x.length ≤ c.1) = [] :=
    List.filter_eq_nil_iff.2 fun c hc => by
      have := mem_cellsFrom hc
      simp only [decide_eq_true_eq]
      omega
  rw [write, List.filter_append, List.filter_append, hbelow, hcells, List.filter_filter]
  simp only [Bool.and_self, List.nil_append]

/-- Writing the same string twice is writing it once. -/
theorem Memory.write_write_same (m : Memory) (off : Nat) (x : Bytes) :
    Memory.write (Memory.write m off x) off x = Memory.write m off x := by
  rw [write, filter_below_write, filter_above_write, write]

theorem readByte_zeros_memWrite {s : State} {off n o : Nat} (ho : off ≤ o ∧ o < off + n) :
    (s.memWrite off (zeros n)).readByte o = 0#8 := by
  rw [State.readByte_memWrite, length_zeros, if_pos ho]
  simp [zeros, show o - off < n by omega]

/-- The state WIPE answers. -/
theorem exec_wipe_false (s : State) : exec (.wipe false) s = .next s.wipeRegisters.finish := rfl

/-- The state WIPE.ZM answers. -/
theorem exec_wipe_true (s : State) : exec (.wipe true) s = .next s.wipeRegisters.wipeMbuf.finish := rfl

/-- A second WIPE.ZM writes the zeros that the first has written. -/
theorem exec_wipe_true_idempotent (s : State) :
    exec (.wipe true) s.wipeRegisters.wipeMbuf.finish = .next s.wipeRegisters.wipeMbuf.finish := by
  rw [exec_wipe_true]
  simp only [State.wipeMbuf, State.wipeRegisters, State.memWrite, State.finish, Memory.write_write_same]

/-- Settles O32: the answered state is `wipeRegisters`, its MBUF zeroed with ZM, and it is its own wiped state. -/
theorem wipeErasesEverySecret : Obligations.WipeErasesEverySecret := by
  unfold Obligations.WipeErasesEverySecret
  intro s zm
  cases zm with
  | false =>
    exact ⟨_, exec_wipe_false s, completedOk_finish rfl rfl rfl, rfl, rfl, rfl, rfl, rfl, rfl, rfl, rfl, rfl, nofun,
      fun _ _ => rfl, exec_sameControl (exec_wipe_false s), rfl, rfl⟩
  | true =>
    have hzero : ∀ o, o < s.mbufBytes → s.wipeRegisters.wipeMbuf.finish.readByte o = 0#8 := fun o ho =>
      readByte_zeros_memWrite (s := s.wipeRegisters) (off := 0) (n := s.mbufBytes) ⟨o.zero_le, by omega⟩
    have hframe : SameMbufOutside 0 s.mbufBytes s s.wipeRegisters.wipeMbuf.finish :=
      sameMbufOutside_of_mbuf_eq rfl rfl (length_zeros _).le
    exact ⟨_, exec_wipe_true s, completedOk_finish rfl rfl rfl, rfl, rfl, rfl, rfl, rfl, rfl, rfl, rfl, rfl,
      fun _ => ⟨hzero, hframe⟩, nofun, exec_sameControl (exec_wipe_true s), rfl, exec_wipe_true_idempotent s⟩

/-! ## The MAC commands and WIPE without ZM -/

theorem sameMbuf_of_mbuf_eq {s t : State} (hm : t.mbuf = s.mbuf) (he : t.mbufEpoch = s.mbufEpoch) : SameMbuf s t :=
  fun o => by rw [State.readByte, hm, he, State.readByte]

/-- The commands but A_ENCRYPT, A_DECRYPT and WIPE.ZM leave MBUF alone. -/
theorem exec_sameMbuf {i : Instr} {s t : State} (he : i ≠ .aEncrypt) (hd : i ≠ .aDecrypt) (hz : i ≠ .wipe true)
    (h : exec i s = .next t) : SameMbuf s t := by
  refine sameMbuf_of_mbuf_eq ?_ (exec_sameControl h).mbufEpoch
  cases i with
  | pInit => obtain ⟨-, rfl⟩ | ⟨-, rfl⟩ := execPInit_cases h <;> rfl
  | pUpdate => obtain ⟨-, rfl⟩ | ⟨-, -, rfl⟩ | ⟨-, -, rfl⟩ := execPUpdate_cases h <;> rfl
  | pFinal => obtain ⟨-, rfl⟩ | ⟨-, rfl⟩ := execPFinal_cases h <;> rfl
  | pVerify => obtain ⟨-, rfl⟩ | ⟨-, -, rfl⟩ | ⟨-, -, rfl⟩ := execPVerify_cases h <;> simp
  | aEncrypt => exact absurd rfl he
  | aDecrypt => exact absurd rfl hd
  | wipe zm =>
    obtain ⟨-, rfl⟩ | ⟨rfl, -⟩ := execWipe_cases h
    · rfl
    · exact absurd rfl hz

/-- Settles O34: MBUF and the port by the two lemmas over all commands, the registers command by command. -/
theorem macCommandFrames : Obligations.MacCommandFrames := by
  unfold Obligations.MacCommandFrames
  intro i s t he hd hz h
  refine ⟨exec_sameMbuf he hd hz h, exec_port_eq he hd h, ?_⟩
  cases i with
  | pInit => obtain ⟨-, rfl⟩ | ⟨-, rfl⟩ := execPInit_cases h <;> simp
  | pUpdate => obtain ⟨-, rfl⟩ | ⟨-, -, rfl⟩ | ⟨-, -, rfl⟩ := execPUpdate_cases h <;> simp
  | pFinal => obtain ⟨-, rfl⟩ | ⟨-, rfl⟩ := execPFinal_cases h <;> simp
  | pVerify => obtain ⟨-, rfl⟩ | ⟨-, -, rfl⟩ | ⟨-, -, rfl⟩ := execPVerify_cases h <;> simp
  | aEncrypt => exact absurd rfl he
  | aDecrypt => exact absurd rfl hd
  | wipe zm =>
    -- every clause excludes WIPE or names another command
    obtain rfl : zm = false := Bool.eq_false_iff.2 fun hzm => hz (hzm ▸ rfl)
    simp

/-! ## The AEAD commands -/

/-- Settles O35: a failed check only consumes; past the checks each end writes MBUF in its destination range only. -/
theorem aeadCommandFrames : Obligations.AeadCommandFrames := by
  unfold Obligations.AeadCommandFrames
  refine fun s t => ⟨fun h => ?_, fun h => ?_⟩
  · obtain ⟨hpkey, -, -, hreftag⟩ := execAEncrypt_inputSets h
    refine ⟨hpkey, hreftag, ?_, ?_, fun hc => ?_⟩
    · obtain ⟨-, rfl⟩ | ⟨-, -, rfl⟩ | ⟨-, -, ⟨p, rfl⟩ | ⟨p, b0, ct, -, rfl⟩⟩ := encryptWith_cases h <;> rfl
    · obtain ⟨-, rfl⟩ | ⟨-, -, rfl⟩ | ⟨-, -, ⟨p, rfl⟩ | ⟨p, b0, ct, hl, rfl⟩⟩ := encryptWith_cases h
      · exact fun _ _ => rfl
      · exact fun _ _ => rfl
      · exact sameMbufOutside_encryptFailed s p
      · exact sameMbufOutside_encrypted s p b0 hl
    · obtain ⟨e, rfl⟩ := execAEncrypt_of_checks_fail h hc
      exact ⟨fun _ => rfl, rfl, rfl, rfl, rfl⟩
  · refine ⟨(execADecrypt_inputSets h).1, ?_, fun hc => ?_⟩
    · obtain ⟨-, rfl⟩ | ⟨-, -, rfl⟩ | ⟨-, -, ⟨p, rfl⟩ | ⟨p, rfl⟩ | ⟨p, pt, hl, rfl⟩⟩ := decryptWith_cases h
      · exact fun _ _ => rfl
      · exact fun _ _ => rfl
      · exact sameMbufOutside_decryptFailed s p _
      · exact sameMbufOutside_decryptFailed s p _
      · exact sameMbufOutside_decrypted s p hl
    · obtain ⟨e, rfl⟩ := execADecrypt_of_checks_fail h hc
      exact ⟨fun _ => rfl, rfl, rfl, rfl, rfl, rfl⟩

/-! ## The keystream port -/

/-- The commands but A_ENCRYPT and A_DECRYPT complete alike whatever the port holds: none of their checks reads it. -/
theorem exec_withPort {i : Instr} {s t : State} (p : Port) (he : i ≠ .aEncrypt) (hd : i ≠ .aDecrypt)
    (h : exec i s = .next t) : exec i { s with port := p } = .next { t with port := p } := by
  cases i with
  | pInit =>
    obtain ⟨hk, rfl⟩ | ⟨hk, rfl⟩ := execPInit_cases h
    · exact exec_pInit_of_key_complete (s := { s with port := p }) hk
    · exact exec_pInit_of_key_incomplete (s := { s with port := p }) hk
  | pUpdate =>
    obtain ⟨hp, rfl⟩ | ⟨hp, hr, rfl⟩ | ⟨hp, hr, rfl⟩ := execPUpdate_cases h
    · exact exec_pUpdate_of_not_active (s := { s with port := p }) hp
    · exact exec_pUpdate_of_bad_range (s := { s with port := p }) hp hr
    · exact exec_pUpdate_of_checks_pass (s := { s with port := p }) hp hr
  | pFinal =>
    obtain ⟨hp, rfl⟩ | ⟨hp, rfl⟩ := execPFinal_cases h
    · exact exec_pFinal_of_not_active (s := { s with port := p }) hp
    · exact exec_pFinal_of_active (s := { s with port := p }) hp
  | pVerify =>
    obtain ⟨hv, rfl⟩ | ⟨hv, hr, rfl⟩ | ⟨hv, hr, rfl⟩ := execPVerify_cases h
    · exact exec_pVerify_of_no_tag (s := { s with port := p }) hv
    · exact exec_pVerify_of_reftag_incomplete (s := { s with port := p }) hv hr
    · exact exec_pVerify_of_checks_pass (s := { s with port := p }) hv hr
  | aEncrypt => exact absurd rfl he
  | aDecrypt => exact absurd rfl hd
  | wipe zm => obtain ⟨rfl, rfl⟩ | ⟨rfl, rfl⟩ := execWipe_cases h <;> rfl

/-- Settles O39: the port is left alone, and a second run with another port has the same checks and answers. -/
theorem otherCommandsIgnoreThePort : Obligations.OtherCommandsIgnoreThePort := by
  unfold Obligations.OtherCommandsIgnoreThePort
  exact fun i s t p he hd h => ⟨exec_port_eq he hd h, exec_withPort p he hd h⟩

end Sys2Proof.Machine

/-! PROOFS: how every command completes, what every step keeps, and that a pending command completes (R181 to R184,
R205, R222, 10_state.md section 3). -/

namespace Sys2Proof.Machine

/-! ## Completions (R181, R184) -/

/-- The error codes of each command: the "raised by" column of R200's table. -/
def raisedBy : Instr → List ErrCode
  | .pInit => [.invalidKeyLength]
  | .pUpdate => [.sequence, .invalidArgument]
  | .pFinal => [.sequence]
  | .pVerify => [.sequence, .invalidArgument]
  | .aEncrypt => [.sequence, .invalidArgument, .underlyingPrimitiveFailure]
  | .aDecrypt => [.sequence, .invalidArgument, .authenticationFailure, .underlyingPrimitiveFailure]
  | .wipe _ => []

/-- No command raises code 0 or code 7 (R200). -/
theorem ne_of_mem_raisedBy {i : Instr} {e : ErrCode} (h : e ∈ raisedBy i) :
    e ≠ .noError ∧ e ≠ .allocationFailure := by
  cases i with
  | wipe zm => exact absurd h List.not_mem_nil
  | _ =>
    revert e
    decide

/-- A completion of a command: without error, or with one of its codes, which sets no MATCH. -/
def Completes (i : Instr) (s t : State) : Prop :=
  CompletedOk s t ∨ ∃ e ∈ raisedBy i, CompletedError e t ∧ (t.tagMatch = true → s.tagMatch = true)

theorem completes_finish {i : Instr} {s u : State} (herr : u.err = s.err) (hcode : u.errcode = s.errcode)
    (hirq : u.irqStat.err = s.irqStat.err) : Completes i s u.finish :=
  .inl (completedOk_finish herr hcode hirq)

theorem completes_finishError {i : Instr} {s u : State} {e : ErrCode} (he : e ∈ raisedBy i)
    (hm : u.tagMatch = true → s.tagMatch = true) : Completes i s (u.finishError e) :=
  .inr ⟨e, he, completedError_finishError e u, hm⟩

/-- Every command completes, in every state. -/
theorem exec_completes {i : Instr} {s t : State} (h : exec i s = .next t) : Completes i s t := by
  cases i with
  | pInit =>
    obtain ⟨-, rfl⟩ | ⟨-, rfl⟩ := execPInit_cases h
    · exact completes_finish rfl rfl rfl
    · exact completes_finishError (by decide) id
  | pUpdate =>
    obtain ⟨-, rfl⟩ | ⟨-, -, rfl⟩ | ⟨-, -, rfl⟩ := execPUpdate_cases h
    · exact completes_finishError (by decide) id
    · exact completes_finishError (by decide) id
    · exact completes_finish rfl rfl rfl
  | pFinal =>
    obtain ⟨-, rfl⟩ | ⟨-, rfl⟩ := execPFinal_cases h
    · exact completes_finishError (by decide) id
    · exact completes_finish rfl rfl rfl
  | pVerify =>
    obtain ⟨-, rfl⟩ | ⟨-, -, rfl⟩ | ⟨-, -, rfl⟩ := execPVerify_cases h
    · exact completes_finishError (by decide) id
    · exact completes_finishError (by decide) id
    · exact .inl (completedOk_verified s _)
  | aEncrypt =>
    obtain ⟨-, rfl⟩ | ⟨-, -, rfl⟩ | ⟨-, -, ⟨p, rfl⟩ | ⟨p, b0, ct, -, rfl⟩⟩ := encryptWith_cases h
    · exact completes_finishError (by decide) id
    · exact completes_finishError (by decide) id
    · exact completes_finishError (by decide) id
    · exact completes_finish rfl rfl rfl
  | aDecrypt =>
    obtain ⟨-, rfl⟩ | ⟨-, -, rfl⟩ | ⟨-, -, ⟨p, rfl⟩ | ⟨p, rfl⟩ | ⟨p, pt, -, rfl⟩⟩ := decryptWith_cases h
    · exact completes_finishError (by decide) id
    · exact completes_finishError (by decide) id
    · exact completes_finishError (by decide) nofun
    · exact completes_finishError (by decide) nofun
    · exact completes_finish rfl rfl rfl
  | wipe zm =>
    obtain ⟨-, rfl⟩ | ⟨-, rfl⟩ := execWipe_cases h
    · exact completes_finish rfl rfl rfl
    · exact completes_finish rfl rfl rfl

theorem Completes.idle {i : Instr} {s t : State} (h : Completes i s t) : t.busy = false := by
  obtain hok | ⟨e, -, herr, -⟩ := h
  · exact hok.busy
  · exact herr.busy

/-- Settles O9: a completion's code is the old one or one of the command's own. -/
theorem errorCodesOfEachCommand : Obligations.ErrorCodesOfEachCommand := by
  unfold Obligations.ErrorCodesOfEachCommand
  intro i s t _ hcode h
  have hend : t.errcode = .noError ∨ t.errcode ∈ raisedBy i := by
    obtain hok | ⟨e, he, herr, -⟩ := exec_completes h
    · exact .inl (hok.errcode.trans hcode)
    · exact .inr (herr.errcode ▸ he)
  cases i <;> simpa only [raisedBy, List.mem_cons, List.not_mem_nil, or_false] using hend

/-! ## Every command answers -/

theorem exec_aEncrypt_answers (s : State) : ∃ t, exec .aEncrypt s = .next t := by
  by_cases hp : s.pstate = .active
  · exact ⟨_, exec_aEncrypt_of_active hp⟩
  cases ha : s.aeadArgs false with
  | false => exact ⟨_, exec_aEncrypt_of_args_fail hp ha⟩
  | true =>
    obtain hok | ⟨j, hj, hfail⟩ := s.port.okThrough_or_firstFailAt (dataBlocks s.srcLen.toNat + 1)
    · exact (exec_aEncrypt_of_okThrough hp ha hok).elim fun _ h => ⟨_, h.1⟩
    · exact (exec_aEncrypt_of_firstFailAt hp ha (Nat.le_of_lt_succ hj) hfail).elim fun _ h => ⟨_, h.1⟩

theorem exec_aDecrypt_answers (s : State) : ∃ t, exec .aDecrypt s = .next t := by
  by_cases hp : s.pstate = .active
  · exact ⟨_, exec_aDecrypt_of_active hp⟩
  cases ha : s.aeadArgs true with
  | false => exact ⟨_, exec_aDecrypt_of_args_fail hp ha⟩
  | true =>
    by_cases hm : s.reftagBytes.toList = s.expectedTag s.srcBytes
    · obtain hok | ⟨j, hj, hfail⟩ := s.port.okThrough_or_firstFailAt (dataBlocks s.srcLen.toNat + 1)
      · exact (exec_aDecrypt_of_okThrough hp ha hm hok).elim fun _ h => ⟨_, h.1⟩
      · exact (exec_aDecrypt_of_firstFailAt hp ha hm (Nat.le_of_lt_succ hj) hfail).elim fun _ h => ⟨_, h.1⟩
    · cases hd : s.port.drawAt 0 with
      | false => exact (exec_aDecrypt_of_mismatch hp ha hd hm).elim fun _ h => ⟨_, h.1⟩
      | true =>
        have hfail : s.port.FirstFailAt 0 := ⟨fun j hj => absurd hj j.not_lt_zero, hd⟩
        exact (exec_aDecrypt_of_firstFailAt_zero hp ha hfail).elim fun _ h => ⟨_, h.1⟩

/-- No command ends in a fault or a refusal. -/
theorem exec_answers (i : Instr) (s : State) : ∃ t, exec i s = .next t := by
  cases i with
  | pInit =>
    cases hk : s.pkey.complete with
    | false => exact ⟨_, exec_pInit_of_key_incomplete hk⟩
    | true => exact ⟨_, exec_pInit_of_key_complete hk⟩
  | pUpdate =>
    by_cases hp : s.pstate = .active
    · cases hr : s.srcRangeOk with
      | false => exact ⟨_, exec_pUpdate_of_bad_range hp hr⟩
      | true => exact ⟨_, exec_pUpdate_of_checks_pass hp hr⟩
    · exact ⟨_, exec_pUpdate_of_not_active hp⟩
  | pFinal =>
    by_cases hp : s.pstate = .active
    · exact ⟨_, exec_pFinal_of_active hp⟩
    · exact ⟨_, exec_pFinal_of_not_active hp⟩
  | pVerify =>
    cases hv : s.tagv with
    | false => exact ⟨_, exec_pVerify_of_no_tag hv⟩
    | true =>
      cases hr : s.reftag.complete with
      | false => exact ⟨_, exec_pVerify_of_reftag_incomplete hv hr⟩
      | true => exact ⟨_, exec_pVerify_of_checks_pass hv hr⟩
  | aEncrypt => exact exec_aEncrypt_answers s
  | aDecrypt => exact exec_aDecrypt_answers s
  | wipe zm => exact (exec_wipe_completes zm s).imp fun _ h => h.1

/-! ## The engine's turn and the step -/

theorem engineTurn_idle {s : State} (hb : s.busy = false) : engineTurn s = .next s := by
  rw [engineTurn, hb, if_neg Bool.false_ne_true]

theorem engineTurn_of_decode_ok {s : State} {i : Instr} (hb : s.busy = true) (hi : decode s.pend = .ok i) :
    engineTurn s = exec i s := by
  rw [engineTurn, if_pos hb, completion, hi]

theorem engineTurn_answers (s : State) : ∃ t, engineTurn s = .next t := by
  cases hb : s.busy with
  | false => exact ⟨s, engineTurn_idle hb⟩
  | true =>
    cases hi : decode s.pend with
    | ok i => exact engineTurn_of_decode_ok hb hi ▸ exec_answers i s
    | error e => exact ⟨_, engineTurn_of_decode_error hb hi⟩

theorem step_of_no_event {s : State} (h : s.events = []) : step s = engineTurn s := by
  simp only [step, h]

theorem step_of_event {s : State} {e : Event} {rest : List Event} (h : s.events = e :: rest) :
    step s = handle e { s with events := rest } := by
  simp only [step, h]

/-- Settles O5: the engine's turn of a busy engine is its completion step. -/
theorem stepRunsTheDecodedCommand : Obligations.StepRunsTheDecodedCommand := by
  unfold Obligations.StepRunsTheDecodedCommand
  intro s i hb hi
  refine ⟨fun h => ?_, fun rest h => ?_⟩
  · rw [step_of_no_event h, engineTurn_of_decode_ok hb hi]
  · rw [step_of_event h, handle]
    exact engineTurn_of_decode_ok (s := { s with events := rest }) hb hi

/-- Settles O58: an idle engine's turn is no change. -/
theorem idleEngineDoesNothing : Obligations.IdleEngineDoesNothing := by
  unfold Obligations.IdleEngineDoesNothing
  intro s hb
  refine ⟨engineTurn_idle hb, fun h => ?_, fun rest h => ?_⟩
  · rw [step_of_no_event h, engineTurn_idle hb]
  · rw [step_of_event h, handle]
    exact engineTurn_idle (s := { s with events := rest }) hb

theorem hostAccess_of_outside {s : State} {a : HostAccess} (h : s.windowBytes ≤ a.off) :
    hostAccess a s = .fault (.outsideWindow a.off) :=
  if_neg (Nat.not_lt.2 h)

/-- Settles O56: commands and the engine's turn always answer, and a transaction in the window does. -/
theorem onlyOutsideAccessesStop : Obligations.OnlyOutsideAccessesStop := by
  unfold Obligations.OnlyOutsideAccessesStop
  refine ⟨exec_answers, fun s => ?_⟩
  cases hev : s.events with
  | nil =>
    rw [step_of_no_event hev]
    exact .inl (engineTurn_answers s)
  | cons e rest =>
    rw [step_of_event hev]
    cases e with
    | engine => exact .inl (engineTurn_answers _)
    | reset => exact .inl ⟨_, rfl⟩
    | host a =>
      by_cases ha : a.off < s.windowBytes
      · exact .inl ⟨_, hostAccess_of_lt (s := { s with events := rest }) ha⟩
      · exact .inr ⟨a, rest, rfl, Nat.not_lt.1 ha,
          hostAccess_of_outside (s := { s with events := rest }) (Nat.not_lt.1 ha)⟩

/-! ## The events are used up one by one (R182) -/

theorem writeReg_events (s : State) (v : Word) (r : Reg) : (s.writeReg v r).events = s.events := by
  cases r <;> rfl

theorem access_events (s : State) (a : HostAccess) : (s.access a).1.events = s.events := by
  obtain h | ⟨v, r, -, h⟩ | ⟨v, h⟩ | ⟨v, h⟩ | ⟨-, h⟩ | ⟨off, x, -, -, h⟩ := access_cases s a <;> rw [h]
  · exact writeReg_events s v r
  · exact writeReg_events s v _
  · exact writeReg_events s v _
  · exact s.refuseWrite_events
  · exact s.memWrite_events off x

/-- The engine's turn adds and uses no event, and leaves the engine idle. -/
theorem engineTurn_events_and_idle {s t : State} (h : engineTurn s = .next t) :
    t.events = s.events ∧ t.busy = false := by
  obtain ⟨hb, rfl⟩ | ⟨-, -, rfl⟩ | ⟨-, i, -, hexec⟩ := engineTurn_cases h
  · exact ⟨rfl, hb⟩
  · exact ⟨rfl, rfl⟩
  · exact ⟨(exec_sameControl hexec).events, (exec_completes hexec).idle⟩

theorem handle_events {e : Event} {s t : State} (h : handle e s = .next t) : t.events = s.events := by
  cases e with
  | host a =>
    obtain ⟨-, rfl⟩ := hostAccess_cases h
    exact access_events s a
  | engine => exact (engineTurn_events_and_idle h).1
  | reset =>
    cases h
    rfl

/-- A run of one step more is that step and then the run. -/
theorem run_succ {M : Host.Core} {k : Nat} {s t : M.State} (h : M.run (k + 1) s = .next t) :
    ∃ u, M.step s = .next u ∧ M.run k u = .next t := by
  rw [Host.Core.run] at h
  split at h
  · rename_i u hu
    exact ⟨u, hu, h⟩
  · cases h
  · cases h

/-- After every event and one step more the engine is idle: the last step is the engine's turn. -/
theorem idle_of_run {n : Nat} {s t : State} (hn : s.events.length = n)
    (h : Host.Core.run Sys2Proof.core (n + 1) s = .next t) : t.busy = false ∧ t.events = [] := by
  induction n generalizing s with
  | zero =>
    obtain ⟨u, hu, hend⟩ := run_succ h
    have hnone := List.eq_nil_of_length_eq_zero hn
    obtain ⟨hev, hidle⟩ := engineTurn_events_and_idle ((step_of_no_event hnone).symm.trans hu)
    cases hend
    exact ⟨hidle, hev.trans hnone⟩
  | succ n ih =>
    obtain ⟨u, hu, hrest⟩ := run_succ h
    obtain ⟨e, rest, hev⟩ := List.exists_cons_of_length_eq_add_one hn
    have hlen : u.events.length = n := by
      rw [handle_events ((step_of_event hev).symm.trans hu)]
      simpa [hev] using hn
    exact ih hlen hrest

/-- Settles O57, by induction on the events. -/
theorem busyEngineCompletes : Obligations.BusyEngineCompletes := by
  unfold Obligations.BusyEngineCompletes
  exact fun s t h => idle_of_run rfl h

/-! ## The invariant, in two parts -/

/-- The part of the invariant that speaks of what is stored: MBUF, TAG, the input sets and the unit. -/
structure State.StoredInv (s : State) : Prop where
  mbufCanonical : Memory.wf s.mbuf
  mbufInside : ∀ c ∈ s.mbuf, c.1 < s.mbufBytes
  mbufLegal : s.mbufBytes % 4 = 0 ∧ 64 ≤ s.mbufBytes ∧ s.mbufBytes ≤ 2 ^ 24
  tagZero : s.tagv = false → s.tag = zeroTag
  keyZero : s.key.InvalidZero
  nonceZero : s.nonce.InvalidZero
  pkeyZero : s.pkey.InvalidZero
  reftagZero : s.reftag.InvalidZero
  unitWiped : s.pstate ≠ .active → s.unit = .zero
  unitBounded : s.unit.Bounded

/-- The part that speaks of STATUS: what ERR, ERRCODE and MATCH say of the last completion. -/
structure State.ResultInv (s : State) : Prop where
  busyClear : s.busy = true → s.err = false ∧ s.errcode = .noError ∧ s.tagMatch = false
  errAgrees : s.err = true ↔ s.errcode ≠ .noError
  noAllocation : s.errcode ≠ .allocationFailure
  matchNoError : s.tagMatch = true → s.err = false

theorem State.inv_iff {s : State} : s.Inv ↔ s.StoredInv ∧ s.ResultInv := by
  constructor
  · intro h
    exact ⟨{ h with unitBounded := ⟨h.hTight, h.rBound, h.bufTail⟩ }, { h with }⟩
  · rintro ⟨hs, hr⟩
    exact { hs, hr with
      hTight := hs.unitBounded.hTight, rBound := hs.unitBounded.rBound, bufTail := hs.unitBounded.bufTail }

/-! ## What the unit's wipe and its start give -/

theorem PolyUnit.bounded_zero : PolyUnit.zero.Bounded where
  hTight := Limbs.tight_zero
  rBound := ⟨by decide, by decide, by decide, by decide, by decide⟩
  bufTail := tailZero_of_empty rfl

theorem bounded_initUnit (k : Bytes) : (initUnit k).Bounded where
  hTight := Limbs.tight_zero
  rBound := loadR_below26 k
  bufTail := tailZero_of_empty rfl

/-- The power-on state meets the invariant whatever lies outside the engine, as long as MBUF's size is legal. -/
theorem inv_of_outside {bytes : Nat} (hlegal : bytes % 4 = 0 ∧ 64 ≤ bytes ∧ bytes ≤ 2 ^ 24) (epoch : Nat) (p : Port)
    (events : List Event) (responses : List Response) :
    State.Inv { State.reset with
      mbufBytes := bytes, mbufEpoch := epoch, port := p, events := events, responses := responses } where
  mbufCanonical := Memory.wf_reset
  mbufInside := nofun
  mbufLegal := hlegal
  busyClear := nofun
  errAgrees := ⟨nofun, fun hcode => absurd rfl hcode⟩
  noAllocation := nofun
  matchNoError := nofun
  tagZero := fun _ => rfl
  keyZero := InputSet.invalidZero_wiped
  nonceZero := InputSet.invalidZero_wiped
  pkeyZero := InputSet.invalidZero_wiped
  reftagZero := InputSet.invalidZero_wiped
  unitWiped := fun _ => rfl
  hTight := PolyUnit.bounded_zero.hTight
  rBound := PolyUnit.bounded_zero.rBound
  bufTail := PolyUnit.bounded_zero.bufTail

/-- Settles O54: the default size is legal. -/
theorem resetMeetsTheInvariant : Obligations.ResetMeetsTheInvariant := by
  unfold Obligations.ResetMeetsTheInvariant
  exact inv_of_outside (by decide) _ _ _ _

/-! ## The stored part, operation by operation -/

namespace State.StoredInv

variable {s : State}

theorem finish (h : s.StoredInv) : s.finish.StoredInv := { h with }

theorem finishError (h : s.StoredInv) (e : ErrCode) : (s.finishError e).StoredInv := { h with }

theorem withPort (h : s.StoredInv) (p : Port) : { s with port := p }.StoredInv := { h with }

theorem withMatch (h : s.StoredInv) (m : Bool) : { s with tagMatch := m }.StoredInv := { h with }

theorem clearTag (h : s.StoredInv) : { s with tag := zeroTag, tagv := false }.StoredInv :=
  { h with tagZero := fun _ => rfl }

theorem validTag (h : s.StoredInv) (tag : Vector Word 4) : { s with tag := tag, tagv := true }.StoredInv :=
  { h with tagZero := nofun }

theorem consumePkey (h : s.StoredInv) : s.consumePkey.StoredInv :=
  { h with pkeyZero := InputSet.invalidZero_wiped }

theorem consumeReftag (h : s.StoredInv) : s.consumeReftag.StoredInv :=
  { h with reftagZero := InputSet.invalidZero_wiped }

theorem consumeKeyNonce (h : s.StoredInv) : s.consumeKeyNonce.StoredInv :=
  { h with keyZero := InputSet.invalidZero_wiped, nonceZero := InputSet.invalidZero_wiped }

theorem consumeKeyNonceReftag (h : s.StoredInv) : s.consumeKeyNonceReftag.StoredInv :=
  { h with
    keyZero := InputSet.invalidZero_wiped, nonceZero := InputSet.invalidZero_wiped,
    reftagZero := InputSet.invalidZero_wiped }

theorem activeUnit (h : s.StoredInv) {u : PolyUnit} (hu : u.Bounded) :
    { s with unit := u, pstate := .active }.StoredInv :=
  { h with unitWiped := fun hp => absurd rfl hp, unitBounded := hu }

theorem wipedUnit (h : s.StoredInv) (ps : PState) : { s with unit := .zero, pstate := ps }.StoredInv :=
  { h with unitWiped := fun _ => rfl, unitBounded := PolyUnit.bounded_zero }

theorem aeadExitEncrypt (h : s.StoredInv) : s.aeadExitEncrypt.StoredInv := (h.wipedUnit _).consumeKeyNonce

theorem aeadExitDecrypt (h : s.StoredInv) : s.aeadExitDecrypt.StoredInv := (h.wipedUnit _).consumeKeyNonceReftag

theorem wipeRegisters (h : s.StoredInv) : s.wipeRegisters.StoredInv :=
  (((h.wipedUnit .empty).consumeKeyNonceReftag.consumePkey).clearTag).withMatch false

/-- A write inside a range of MBUF that is in bounds (R79). -/
theorem memWrite (h : s.StoredInv) {off n : Nat} {x : Bytes} (hr : rangeOk s.mbufBytes off n = true)
    (hl : x.length ≤ n) : (s.memWrite off x).StoredInv :=
  { h with
    mbufCanonical := Memory.wf_write h.mbufCanonical off x
    mbufInside := fun c hc => by
      rcases Memory.mem_write hc with hold | hnew
      · exact h.mbufInside c hold
      · have := rangeOk_iff.1 hr
        simp only [memWrite_mbufBytes]
        omega }

theorem zeroDst (h : s.StoredInv) (hr : rangeOk s.mbufBytes s.dstOff.toNat s.srcLen.toNat = true) :
    s.zeroDst.StoredInv :=
  h.memWrite hr (length_zeros _).le

theorem wipeMbuf (h : s.StoredInv) : s.wipeMbuf.StoredInv :=
  h.memWrite (rangeOk_iff.2 (.inr (Nat.zero_add _).le)) (length_zeros _).le

theorem writeReg (h : s.StoredInv) (v : Word) (r : Reg) : (s.writeReg v r).StoredInv := by
  cases r with
  | key i => exact { h with keyZero := InputSet.invalidZero_write h.keyZero i v }
  | nonce i => exact { h with nonceZero := InputSet.invalidZero_write h.nonceZero i v }
  | pkey i => exact { h with pkeyZero := InputSet.invalidZero_write h.pkeyZero i v }
  | reftag i => exact { h with reftagZero := InputSet.invalidZero_write h.reftagZero i v }
  | _ => exact { h with }

theorem access (h : s.StoredInv) (a : HostAccess) : (s.access a).1.StoredInv := by
  obtain e | ⟨v, r, -, e⟩ | ⟨v, e⟩ | ⟨v, e⟩ | ⟨-, e⟩ | ⟨off, x, -, hin, e⟩ := access_cases s a <;> rw [e]
  · exact h
  · exact h.writeReg v r
  · exact h.writeReg v _
  · exact h.writeReg v _
  · exact { h with }
  · exact h.memWrite (rangeOk_iff.2 (.inr hin)) le_rfl

end State.StoredInv

/-! ## The stored part, command by command -/

theorem execPInit_storedInv {s t : State} (hs : s.StoredInv) (h : execPInit s = .next t) : t.StoredInv := by
  obtain ⟨-, rfl⟩ | ⟨-, rfl⟩ := execPInit_cases h
  · exact (hs.activeUnit (bounded_initUnit _)).consumePkey.finish
  · exact hs.consumePkey.finishError _

theorem execPUpdate_storedInv {s t : State} (hs : s.StoredInv) (h : execPUpdate s = .next t) : t.StoredInv := by
  obtain ⟨-, rfl⟩ | ⟨-, -, rfl⟩ | ⟨hp, -, rfl⟩ := execPUpdate_cases h
  · exact hs.finishError _
  · exact hs.finishError _
  · have hstream := hs.activeUnit (hs.unitBounded.absorb s.srcBytes)
    rw [← hp] at hstream
    exact hstream.finish

theorem execPFinal_storedInv {s t : State} (hs : s.StoredInv) (h : execPFinal s = .next t) : t.StoredInv := by
  obtain ⟨-, rfl⟩ | ⟨-, rfl⟩ := execPFinal_cases h
  · exact hs.finishError _
  · exact ((hs.validTag _).wipedUnit .finalized).finish

theorem execPVerify_storedInv {s t : State} (hs : s.StoredInv) (h : execPVerify s = .next t) : t.StoredInv := by
  obtain ⟨-, rfl⟩ | ⟨-, -, rfl⟩ | ⟨-, -, rfl⟩ := execPVerify_cases h
  · exact hs.consumeReftag.finishError _
  · exact hs.consumeReftag.finishError _
  · exact (hs.withMatch _).consumeReftag.finish

theorem execAEncrypt_storedInv {s t : State} (hs : s.StoredInv) (h : execAEncrypt s = .next t) : t.StoredInv := by
  obtain ⟨-, rfl⟩ | ⟨-, -, rfl⟩ | ⟨-, ha, ⟨p, rfl⟩ | ⟨p, b0, ct, hl, rfl⟩⟩ := encryptWith_cases h
  · exact hs.consumeKeyNonce.finishError _
  · exact hs.consumeKeyNonce.finishError _
  · exact ((hs.withPort p).zeroDst (State.dstRange_of_aeadArgs ha)).clearTag.aeadExitEncrypt.finishError _
  · exact (((hs.withPort p).memWrite (State.dstRange_of_aeadArgs ha) hl).validTag _).aeadExitEncrypt.finish

theorem execADecrypt_storedInv {s t : State} (hs : s.StoredInv) (h : execADecrypt s = .next t) : t.StoredInv := by
  have hfail (p : Port) (e : ErrCode) (ha : s.aeadArgs true = true) : (s.decryptFailed p e).StoredInv :=
    ((((hs.withPort p).clearTag).zeroDst (State.dstRange_of_aeadArgs ha)).withMatch _).aeadExitDecrypt.finishError _
  obtain ⟨-, rfl⟩ | ⟨-, -, rfl⟩ | ⟨-, ha, ⟨p, rfl⟩ | ⟨p, rfl⟩ | ⟨p, pt, hl, rfl⟩⟩ := decryptWith_cases h
  · exact hs.consumeKeyNonceReftag.finishError _
  · exact hs.consumeKeyNonceReftag.finishError _
  · exact hfail p _ ha
  · exact hfail p _ ha
  · exact ((((hs.withPort p).clearTag).memWrite (State.dstRange_of_aeadArgs ha) hl).withMatch _).aeadExitDecrypt.finish

theorem execWipe_storedInv {zm : Bool} {s t : State} (hs : s.StoredInv) (h : execWipe zm s = .next t) :
    t.StoredInv := by
  obtain ⟨-, rfl⟩ | ⟨-, rfl⟩ := execWipe_cases h
  · exact hs.wipeRegisters.finish
  · exact hs.wipeRegisters.wipeMbuf.finish

theorem exec_storedInv {i : Instr} {s t : State} (hs : s.StoredInv) (h : exec i s = .next t) : t.StoredInv := by
  cases i with
  | pInit => exact execPInit_storedInv hs h
  | pUpdate => exact execPUpdate_storedInv hs h
  | pFinal => exact execPFinal_storedInv hs h
  | pVerify => exact execPVerify_storedInv hs h
  | aEncrypt => exact execAEncrypt_storedInv hs h
  | aDecrypt => exact execADecrypt_storedInv hs h
  | wipe zm => exact execWipe_storedInv hs h

/-! ## The result part -/

/-- A completion with an error, MATCH clear, is a result. -/
theorem CompletedError.resultInv {e : ErrCode} {t : State} (h : CompletedError e t) (he : e ≠ .noError)
    (he' : e ≠ .allocationFailure) (hm : t.tagMatch = false) : t.ResultInv where
  busyClear := fun hb => absurd (hb.symm.trans h.busy) Bool.false_ne_true.symm
  errAgrees := ⟨fun _ => h.errcode ▸ he, fun _ => h.err⟩
  noAllocation := h.errcode ▸ he'
  matchNoError := fun hmatch => absurd (hmatch.symm.trans hm) Bool.false_ne_true.symm

/-- A completion without error of a command that acceptance started is a result. -/
theorem CompletedOk.resultInv {s t : State} (h : CompletedOk s t) (herr : s.err = false)
    (hcode : s.errcode = .noError) : t.ResultInv where
  busyClear := fun hb => absurd (hb.symm.trans h.busy) Bool.false_ne_true.symm
  errAgrees := by simp [h.err, h.errcode, herr, hcode]
  noAllocation := by simp [h.errcode, hcode]
  matchNoError := fun _ => h.err.trans herr

theorem exec_resultInv {i : Instr} {s t : State} (hs : s.ResultInv) (hb : s.busy = true) (h : exec i s = .next t) :
    t.ResultInv := by
  obtain ⟨herr, hcode, hmatch⟩ := hs.busyClear hb
  obtain hok | ⟨e, he, hend, hm⟩ := exec_completes h
  · exact hok.resultInv herr hcode
  · obtain ⟨hne, hne'⟩ := ne_of_mem_raisedBy he
    exact hend.resultInv hne hne' (Bool.eq_false_iff.2 fun htrue => by simp [hm htrue] at hmatch)

theorem State.ResultInv.writeReg {s : State} (h : s.ResultInv) (v : Word) (r : Reg) : (s.writeReg v r).ResultInv := by
  cases r with
  | cmd =>
    exact {
      busyClear := fun _ => ⟨rfl, rfl, rfl⟩
      errAgrees := by simp [State.writeReg]
      noAllocation := nofun
      matchNoError := nofun }
  | _ => exact { h with }

theorem State.ResultInv.access {s : State} (h : s.ResultInv) (a : HostAccess) : (s.access a).1.ResultInv := by
  obtain e | ⟨v, r, -, e⟩ | ⟨v, e⟩ | ⟨v, e⟩ | ⟨-, e⟩ | ⟨off, x, -, hin, e⟩ := access_cases s a <;> rw [e]
  · exact h
  · exact h.writeReg v r
  · exact h.writeReg v _
  · exact h.writeReg v _
  · exact { h with }
  · exact { h with }

/-! ## The step -/

theorem engineTurn_inv {s t : State} (hs : s.Inv) (h : engineTurn s = .next t) : t.Inv := by
  obtain ⟨hstored, hresult⟩ := State.inv_iff.1 hs
  obtain ⟨-, rfl⟩ | ⟨hb, -, rfl⟩ | ⟨hb, i, -, hexec⟩ := engineTurn_cases h
  · exact hs
  · exact State.inv_iff.2 ⟨hstored.finishError _,
      (completedError_finishError _ _).resultInv nofun nofun (hresult.busyClear hb).2.2⟩
  · exact State.inv_iff.2 ⟨exec_storedInv hstored hexec, exec_resultInv hresult hb hexec⟩

theorem hostAccess_inv {a : HostAccess} {s t : State} (hs : s.Inv) (h : hostAccess a s = .next t) : t.Inv := by
  obtain ⟨hstored, hresult⟩ := State.inv_iff.1 hs
  obtain ⟨-, rfl⟩ := hostAccess_cases h
  exact State.inv_iff.2 ⟨{ hstored.access a with }, { hresult.access a with }⟩

theorem handle_inv {e : Event} {s t : State} (hs : s.Inv) (h : handle e s = .next t) : t.Inv := by
  cases e with
  | host a => exact hostAccess_inv hs h
  | engine => exact engineTurn_inv hs h
  | reset =>
    cases h
    exact inv_of_outside hs.mbufLegal _ _ _ _

/-- Settles O55: MBUF, TAG, input sets and unit by the operations each command and access is made of; the result by
the way every command completes. -/
theorem stepKeepsTheInvariant : Obligations.StepKeepsTheInvariant := by
  unfold Obligations.StepKeepsTheInvariant
  intro s t hs h
  cases hev : s.events with
  | nil =>
    rw [step_of_no_event hev] at h
    exact engineTurn_inv hs h
  | cons e rest =>
    rw [step_of_event hev] at h
    exact handle_inv (s := { s with events := rest }) { hs with } h

/-- Settles O8: the engine's turn answers, and its answer is a completion of one of the two kinds. -/
theorem everyCompletionIsRecorded : Obligations.EveryCompletionIsRecorded := by
  unfold Obligations.EveryCompletionIsRecorded
  intro s hs hb
  obtain ⟨herr, hcode, -⟩ := hs.busyClear hb
  obtain ⟨t, ht⟩ := engineTurn_answers s
  refine ⟨t, ht, ?_⟩
  have herror {e : ErrCode} (he : e ≠ .noError) (hend : CompletedError e t) :
      t.busy = false ∧ t.irqStat.done = true
        ∧ ((t.errcode = .noError ∧ t.err = false ∧ t.irqStat.err = s.irqStat.err)
          ∨ (t.errcode ≠ .noError ∧ t.err = true ∧ t.irqStat.err = true)) :=
    ⟨hend.busy, hend.done, .inr ⟨hend.errcode ▸ he, hend.err, hend.irqErr⟩⟩
  obtain ⟨hidle, -⟩ | ⟨-, -, rfl⟩ | ⟨-, i, -, hexec⟩ := engineTurn_cases ht
  · exact absurd (hb.symm.trans hidle) Bool.false_ne_true.symm
  · exact herror (e := .illegalCmd) nofun (completedError_finishError _ s)
  · obtain hok | ⟨e, he, hend, -⟩ := exec_completes hexec
    · exact ⟨hok.busy, hok.done, .inl ⟨hok.errcode.trans hcode, hok.err.trans herr, hok.irqErr⟩⟩
    · exact herror (ne_of_mem_raisedBy he).1 hend

end Sys2Proof.Machine

/-! PROOFS: the fields of words, the decoder's inverse and a placed command (R22 to R28, R90 to R93). -/

namespace Sys2Proof.Machine

/-! ## Fields of a word -/

theorem getLsbD_fieldAt {n : Nat} (lo : Nat) (x : BitVec n) (i : Nat) :
    (fieldAt lo x).getLsbD i = (decide (i < 32) && (decide (lo ≤ i) && x.getLsbD (i - lo))) := by
  by_cases hi : i < 32
  · rw [BitVec.getLsbD_eq_getElem hi, getElem_fieldAt, decide_eq_true hi, Bool.true_and]
  · simp [BitVec.getLsbD_of_ge _ _ (not_lt.1 hi), hi]

/-- A field reads back at its own place. -/
theorem extractLsb'_fieldAt_same {n lo : Nat} (x : BitVec n) (h : lo + n ≤ 32) :
    (fieldAt lo x).extractLsb' lo n = x := by
  ext i hi
  rw [BitVec.getElem_extractLsb', getLsbD_fieldAt, decide_eq_true (by omega), decide_eq_true (by omega),
    Nat.add_sub_cancel_left, BitVec.getLsbD_eq_getElem hi, Bool.true_and, Bool.true_and]

/-- A field leaves every place beside its own zero. -/
theorem extractLsb'_fieldAt_disjoint {n lo lo' n' : Nat} (x : BitVec n) (h : lo' + n' ≤ lo ∨ lo + n ≤ lo') :
    (fieldAt lo x).extractLsb' lo' n' = 0#n' := by
  ext i hi
  rw [BitVec.getElem_extractLsb', getLsbD_fieldAt, BitVec.getElem_zero]
  rcases h with h | h
  · rw [decide_eq_false (show ¬lo ≤ lo' + i by omega), Bool.false_and, Bool.and_false]
  · rw [BitVec.getLsbD_of_ge _ _ (by omega), Bool.and_false, Bool.and_false]

/-- STATUS's reserved bits 7:6 (R23). -/
theorem State.statusWord_reserved_low (s : State) : s.statusWord.extractLsb' 6 2 = 0#2 := by
  simp [statusWord, BitVec.extractLsb'_or, extractLsb'_fieldAt_disjoint]

/-- STATUS's reserved bits 31:12 (R23). -/
theorem State.statusWord_reserved_high (s : State) : s.statusWord.extractLsb' 12 20 = 0#20 := by
  simp [statusWord, BitVec.extractLsb'_or, extractLsb'_fieldAt_disjoint]

/-- An interrupt register's reserved bits 31:3 (R24, R25). -/
theorem IrqBits.extractLsb'_toWord_reserved (b : IrqBits) : b.toWord.extractLsb' 3 29 = 0#29 := by
  simp [toWord, BitVec.extractLsb'_or, extractLsb'_fieldAt_disjoint]

/-- An interrupt register's three bits at their places (R24, R25). -/
theorem IrqBits.getLsbD_toWord (b : IrqBits) :
    b.toWord.getLsbD 0 = b.done ∧ b.toWord.getLsbD 1 = b.err ∧ b.toWord.getLsbD 2 = b.werr := by
  simp [toWord, getElem_fieldAt]

/-- VALID's fields at their places, the reserved bits 0 (R28). -/
theorem State.validWord_fields (s : State) :
    s.validWord.extractLsb' 0 8 = s.key.valid ∧ s.validWord.extractLsb' 8 3 = s.nonce.valid
      ∧ s.validWord.extractLsb' 11 5 = 0#5 ∧ s.validWord.extractLsb' 16 8 = s.pkey.valid
      ∧ s.validWord.extractLsb' 24 4 = s.reftag.valid ∧ s.validWord.extractLsb' 28 4 = 0#4 := by
  simp [validWord, BitVec.extractLsb'_or, extractLsb'_fieldAt_same, extractLsb'_fieldAt_disjoint]

end Sys2Proof.Machine

namespace Sys2Proof

/-! ## The decoder (R90 to R93) -/

/-- Every triple of fields reads back from its word. -/
theorem Cmd32.ofWord_toWord (c : Cmd32) : Cmd32.ofWord c.toWord = c := by
  have hop : c.toWord.extractLsb' 0 8 = c.op := by
    simp [toWord, BitVec.extractLsb'_or, Machine.extractLsb'_fieldAt_same, Machine.extractLsb'_fieldAt_disjoint]
  have hzm : c.toWord.getLsbD 8 = c.zm := by
    simp [toWord, Machine.getElem_fieldAt]
  have hrsv : c.toWord.extractLsb' 9 23 = c.rsv := by
    simp [toWord, BitVec.extractLsb'_or, Machine.extractLsb'_fieldAt_same, Machine.extractLsb'_fieldAt_disjoint]
  rw [ofWord, hop, hzm, hrsv]

/-- A command's word decodes to it. -/
theorem decode_encode (i : Instr) : decode (encode i) = .ok i :=
  decode_eq_ok_iff.2 (Cmd32.ofWord_toWord i.fields)

/-- Settles O4: the split into fields is a bijection, and a word decodes by its fields. -/
theorem decodeInvertsEncode : Obligations.DecodeInvertsEncode := by
  unfold Obligations.DecodeInvertsEncode
  refine ⟨fun w i => ⟨eq_encode_of_decode, ?_⟩, Cmd32.toWord_ofWord, Cmd32.ofWord_toWord⟩
  rintro rfl
  exact decode_encode i

/-- Settles O1: each word is its command's word. -/
theorem handWrittenWordsDecode : Obligations.HandWrittenWordsDecode := by
  unfold Obligations.HandWrittenWordsDecode
  exact ⟨decode_encode .pInit, decode_encode .pUpdate, decode_encode .pFinal, decode_encode .pVerify,
    decode_encode .aEncrypt, decode_encode .aDecrypt, decode_encode (.wipe false), decode_encode (.wipe true)⟩

/-- A 32-bit word as the opcode table numbers its bits. -/
theorem tableWord_toNat (w : Word) : tableWord 32 w.toNat = w := by
  rw [tableWord, Nat.mod_eq_of_lt w.isLt, BitVec.ofNat_toNat, BitVec.setWidth_eq]

end Sys2Proof

namespace Sys2Proof.Machine

/-- Settles O6: the placed word is accepted, the engine's turn is next, and the word decodes to its command. -/
theorem fetchedWordRunsNext : Obligations.FetchedWordRunsNext := by
  unfold Obligations.FetchedWordRunsNext
  intro s i
  rw [State.withFetchWord, tableWord_toNat]
  exact engineTurn_of_decode_ok (s := s.accept (encode i)) rfl (decode_encode i)

end Sys2Proof.Machine

/-! PROOFS: the host window: the map's gaps, what reads and writes of each region do, and what they reveal (R60 to R67,
R215, 10_state.md section 2). -/

namespace Sys2Proof.Machine

/-! ## The window and the register map -/

/-- Settles O60: the window is an interval that starts at ENGINE_BASE. -/
theorem windowIsAtEngineBase : Obligations.WindowIsAtEngineBase := by
  unfold Obligations.WindowIsAtEngineBase
  intro s addr a
  have hsize : s.windowBytes = 0x1000 + s.mbufBytes := rfl
  rw [State.windowOffset?, hsize]
  split
  · rw [Option.some.injEq]
    omega
  · refine ⟨nofun, ?_⟩
    rintro ⟨haddr, ha⟩
    omega

/-- The words of the register region that the map leaves out (R63). -/
theorem regAtWord_eq_none_iff (k : Nat) :
    regAtWord k = none ↔ (12 ≤ k ∧ k < 16) ∨ (27 ≤ k ∧ k < 32) ∨ 48 ≤ k := by
  unfold regAtWord
  split
  -- the twelve words mapped one by one
  iterate 12 · simp
  -- the five register groups, and what is unmapped
  simp only [imp_false] at *
  repeat' split
  all_goals simp only [reduceCtorEq, true_iff, false_iff]; omega

/-- Settles O40: the map is exact, and its gaps are the words it leaves out. -/
theorem registerMapIsExact : Obligations.RegisterMapIsExact := by
  unfold Obligations.RegisterMapIsExact
  refine ⟨fun off r => regAt_eq_some_iff.trans eq_comm, fun off hlt halign => ?_⟩
  rw [regAt, if_pos halign, regAtWord_eq_none_iff]
  omega

/-! ## Answers -/

theorem State.access_illegal {s : State} {a : HostAccess} (hl : s.legalAccess a.width a.off = false) :
    s.access a = (s, .busError 0#32) :=
  if_neg (Bool.eq_false_iff.1 hl)

/-- Settles O42: an illegal access is answered by `State.access` without a change. -/
theorem illegalAccessIsBusError : Obligations.IllegalAccessIsBusError := by
  unfold Obligations.IllegalAccessIsBusError
  intro s a hoff hl
  rw [hostAccess_of_lt hoff, State.access_illegal hl]

theorem State.access_read_fst (s : State) (w : Width) (off : Nat) : (s.access (.read w off)).1 = s := by
  unfold access
  split <;> rfl

/-- Settles O43: a read's transaction leaves the state, and its answer is recorded. -/
theorem readsChangeNothing : Obligations.ReadsChangeNothing := by
  unfold Obligations.ReadsChangeNothing
  intro s t w off h
  obtain ⟨-, rfl⟩ := hostAccess_cases h
  exact ⟨_, by rw [State.access_read_fst]⟩

/-! ## The interrupt registers -/

/-- IRQ_EN takes a host write, busy or idle (R71). -/
theorem State.busWrite_irqEn (s : State) (v : Word) : s.busWrite .w32 Reg.irqEn.offset v = s.writeReg v .irqEn := by
  cases hb : s.busy with
  | false => exact busWrite_idle_offset hb .irqEn
  | true => rw [busWrite_busy hb, writeBusy_irqEn]

/-- IRQ_STAT takes a host write, busy or idle (R71). -/
theorem State.busWrite_irqStat (s : State) (v : Word) :
    s.busWrite .w32 Reg.irqStat.offset v = s.writeReg v .irqStat := by
  cases hb : s.busy with
  | false => exact busWrite_idle_offset hb .irqStat
  | true => rw [busWrite_busy hb, writeBusy_irqStat]

/-- A host write to a mapped register is `State.busWrite`, busy or idle. -/
theorem hostAccess_write_offset (s : State) (r : Reg) (v : Word) :
    hostAccess (.write .w32 r.offset v) s
      = .next { s.busWrite .w32 r.offset v with responses := s.responses ++ [.writeOk] } :=
  hostAccess_write (s.offset_lt_windowBytes r) (s.legalAccess_offset r) v

/-- Settles O50: both registers take the write whether the engine is busy or idle. -/
theorem interruptRegisterWrites : Obligations.InterruptRegisterWrites := by
  unfold Obligations.InterruptRegisterWrites
  intro s v
  have hen := hostAccess_write_offset s .irqEn v
  have hstat := hostAccess_write_offset s .irqStat v
  rw [State.busWrite_irqEn] at hen
  rw [State.busWrite_irqStat] at hstat
  exact ⟨hen, hstat⟩

/-- The AND of two interrupt registers' words is nonzero exactly when some bit is set in both. -/
theorem IrqBits.toWord_and_ne_zero_iff (a b : IrqBits) :
    a.toWord &&& b.toWord ≠ 0#32 ↔
      ((a.done && b.done) || (a.err && b.err) || (a.werr && b.werr)) = true := by
  obtain ⟨d, e, w⟩ := a
  obtain ⟨d', e', w'⟩ := b
  revert d e w d' e' w'
  decide

/-- Settles O51: the line is the OR of the enabled pending bits. -/
theorem interruptLine : Obligations.InterruptLine := by
  unfold Obligations.InterruptLine
  exact fun s => (IrqBits.toWord_and_ne_zero_iff s.irqStat s.irqEn).symm

/-! ## Reads of the registers -/

theorem State.readReg_tag_idle {s : State} (hb : s.busy = false) (i : Fin 4) : s.readReg (.tag i) = s.tag[i] := by
  rw [readReg, hb, if_neg Bool.false_ne_true]

/-- ID's three fields at their places (R22). -/
theorem idWord_fields :
    Config.idWord.extractLsb' 16 16 = 0x1305#16 ∧ Config.idWord.extractLsb' 8 8 = 0x01#8
      ∧ Config.idWord.extractLsb' 0 8 = 0x00#8 := by
  decide

/-- Settles O52: a read of a mapped register answers `State.readReg`, whose words hold their fields. -/
theorem idStatusAndSizeFields : Obligations.IdStatusAndSizeFields := by
  unfold Obligations.IdStatusAndSizeFields
  intro s
  obtain ⟨hhigh, hmid, hlow⟩ := idWord_fields
  obtain ⟨henDone, henErr, henWerr⟩ := s.irqEn.getLsbD_toWord
  obtain ⟨hstatDone, hstatErr, hstatWerr⟩ := s.irqStat.getLsbD_toWord
  refine ⟨hostAccess_readReg s, fun hb i => ?_, henDone, henErr, henWerr, s.irqEn.extractLsb'_toWord_reserved,
    hstatDone, hstatErr, hstatWerr, s.irqStat.extractLsb'_toWord_reserved, hhigh, hmid, hlow, rfl,
    s.statusWord_bit_zero, s.statusWord_bit_one, s.statusWord_bit_two, s.statusWord_bit_three, ?_,
    s.statusWord_reserved_low, ?_, s.statusWord_reserved_high⟩
  · have hread := hostAccess_readReg s (.tag i)
    rwa [State.readReg_tag_idle hb] at hread
  · exact s.statusWord_pstate.trans (by cases s.pstate <;> rfl)
  · exact s.statusWord_errcode.trans (by cases s.errcode <;> rfl)

theorem State.access_readReg (s : State) (r : Reg) :
    (s.access (.read .w32 r.offset)).2 = .readOk (s.readReg r) := by
  rw [access_read (s.legalAccess_offset r), busRead_offset]

/-! ## The operand registers -/

/-- Settles O47: each operand register's line of `State.writeReg` and `State.readReg`, the commands' frame, and the
reset values. -/
theorem operandRegistersReadBack : Obligations.OperandRegistersReadBack := by
  unfold Obligations.OperandRegistersReadBack
  refine ⟨fun s v hb => ?write, fun s => ?read, fun i s t h => ?command, fun s => ⟨rfl, rfl, rfl, rfl, rfl⟩⟩
  case write =>
    exact ⟨hostAccess_writeReg hb .srcOff v, hostAccess_writeReg hb .srcLen v, hostAccess_writeReg hb .aadOff v,
      hostAccess_writeReg hb .aadLen v, hostAccess_writeReg hb .dstOff v⟩
  case read =>
    exact ⟨s.access_readReg .srcOff, s.access_readReg .srcLen, s.access_readReg .aadOff, s.access_readReg .aadLen,
      s.access_readReg .dstOff⟩
  case command =>
    have hc := exec_sameControl h
    exact ⟨hc.srcOff, hc.srcLen, hc.aadOff, hc.aadLen, hc.dstOff⟩

/-! ## The input sets -/

/-- Byte 4i + j of a group of words is byte j of word i (R62). -/
theorem getElem_bytesOfWords {n m i j : Nat} (v : Vector Word n) (hi : i < n) (hj : j < 4) (h : 4 * i + j < m) :
    (bytesOfWords m v)[4 * i + j] = v[i].extractLsb' (8 * j) 8 := by
  rw [bytesOfWords, Vector.getElem_ofFn, wordsByte, show (4 * i + j) / 4 = i by omega,
    show (4 * i + j) % 4 = j by omega, Vector.getElem?_eq_getElem hi, Option.getD_some]

/-- Settles O48: each set's line of `State.writeReg`, the words and bits that `InputSet.write` leaves, the bytes of the
words, and VALID's fields. -/
theorem inputWordsAndTheirValidBits : Obligations.InputWordsAndTheirValidBits := by
  unfold Obligations.InputWordsAndTheirValidBits
  refine ⟨fun s v hb => ⟨fun i => hostAccess_writeReg hb (.key i) v, fun i => hostAccess_writeReg hb (.nonce i) v,
      fun i => hostAccess_writeReg hb (.pkey i) v, fun i => hostAccess_writeReg hb (.reftag i) v⟩,
    fun n x i v j hj => ⟨?word, ?valid⟩,
    fun s i j => ⟨getElem_bytesOfWords _ i.isLt j.isLt _, getElem_bytesOfWords _ i.isLt j.isLt _⟩,
    fun s i j => getElem_bytesOfWords _ i.isLt j.isLt _,
    fun s i j => ⟨getElem_bytesOfWords _ i.isLt j.isLt _, getElem_bytesOfWords _ i.isLt j.isLt _⟩,
    fun s => s.validWord_fields⟩
  case word => simp only [InputSet.write_words x i v j hj, eq_comm]
  case valid =>
    rw [InputSet.write_valid x i v j hj]
    by_cases h : j = i.val
    · simp [h]
    · simp [h, Ne.symm h]

/-! ## MBUF -/

/-- Byte `k` of a number's bytes. -/
theorem getD_leBytes {v n k : Nat} (hk : k < n) : (leBytes v n).getD k 0#8 = BitVec.ofNat 8 (v / 256 ^ k) := by
  induction n generalizing v k with
  | zero => omega
  | succ n ih =>
    cases k with
    | zero => simp [leBytes]
    | succ k =>
      rw [leBytes, List.getD_cons_succ, ih (by omega), Nat.div_div_eq_div_mul, Nat.pow_succ, Nat.mul_comm 256]

/-- Byte `k` of a byte string's number. -/
theorem leInt_div_mod (x : Bytes) (k : Nat) : leInt x / 256 ^ k % 256 = (x.getD k 0#8).toNat := by
  rw [← leInt_drop, List.getD_eq_getElem?_getD, ← List.head?_drop]
  cases x.drop k with
  | nil => rfl
  | cons b y =>
    have := b.isLt
    simp only [leInt, List.head?_cons, Option.getD_some]
    omega

/-- Data bits [8k+7 : 8k] of a word are byte k of its number. -/
theorem toNat_extract_byte (v : Word) (k : Nat) : (v.extractLsb' (8 * k) 8).toNat = v.toNat / 256 ^ k % 256 := by
  rw [BitVec.extractLsb'_toNat, Nat.shiftRight_eq_div_pow, Nat.pow_mul]

/-- The number of at most four bytes, as a word, carries byte k in bits [8k+7 : 8k], and zeros above. -/
theorem extract_byte_ofNat_leInt {x : Bytes} (hx : x.length ≤ 4) (k : Nat) :
    (BitVec.ofNat 32 (leInt x)).extractLsb' (8 * k) 8 = x.getD k 0#8 := by
  have hlt : leInt x < 2 ^ 32 := lt_of_lt_of_le (leInt_lt x)
    ((Nat.pow_le_pow_right (by norm_num) hx).trans (by norm_num))
  apply BitVec.eq_of_toNat_eq
  rw [toNat_extract_byte, BitVec.toNat_ofNat, Nat.mod_eq_of_lt hlt, leInt_div_mod]

theorem Width.bytes_le_four (w : Width) : w.bytes ≤ 4 := by
  cases w <;> decide

theorem State.getD_memRead {s : State} {off n k : Nat} (hk : k < n) :
    (s.memRead off n).getD k 0#8 = s.readByte (off + k) := by
  simp [memRead, hk]

section
variable {s : State} {w : Width} {o : Nat}

/-- A legal access to the MBUF region lies in the window. -/
theorem State.mbuf_lt_windowBytes (hl : s.legalAccess w (0x1000 + o) = true) : 0x1000 + o < s.windowBytes := by
  obtain ⟨-, hend⟩ := (legalAccess_mbuf_iff (off := 0x1000 + o) (Nat.le_add_right _ _)).1 hl
  have hpos : 0 < w.bytes := by cases w <;> decide
  omega

theorem State.busWrite_mbuf (hb : s.busy = false) (v : Word) :
    s.busWrite w (0x1000 + o) v = s.memWrite o (leBytes v.toNat w.bytes) := by
  have hregion : ¬0x1000 + o < Config.registerBytes := Nat.not_lt.2 (Nat.le_add_right _ _)
  rw [busWrite, hb, if_neg Bool.false_ne_true, writeIdle, if_neg hregion, Config.registerBytes,
    Nat.add_sub_cancel_left]

theorem State.busRead_mbuf (hb : s.busy = false) :
    s.busRead w (0x1000 + o) = BitVec.ofNat 32 (leInt (s.memRead o w.bytes)) := by
  have hregion : ¬0x1000 + o < Config.registerBytes := Nat.not_lt.2 (Nat.le_add_right _ _)
  rw [busRead, if_neg hregion, hb, if_neg Bool.false_ne_true, Config.registerBytes, Nat.add_sub_cancel_left]

/-- A legal host write to MBUF of an idle engine is `MemWrite` of the data's bytes. -/
theorem hostAccess_write_mbuf (hb : s.busy = false) (hl : s.legalAccess w (0x1000 + o) = true) (v : Word) :
    hostAccess (.write w (0x1000 + o) v) s
      = .next { s.memWrite o (leBytes v.toNat w.bytes) with responses := s.responses ++ [.writeOk] } := by
  rw [hostAccess_write (State.mbuf_lt_windowBytes hl) hl, State.busWrite_mbuf hb]

/-- A legal host read of MBUF of an idle engine answers the number of the bytes read. -/
theorem hostAccess_read_mbuf (hb : s.busy = false) (hl : s.legalAccess w (0x1000 + o) = true) :
    hostAccess (.read w (0x1000 + o)) s
      = .next { s with
          responses := s.responses ++ [.readOk (BitVec.ofNat 32 (leInt (s.memRead o w.bytes)))] } := by
  rw [hostAccess_of_lt (a := .read w (0x1000 + o)) (State.mbuf_lt_windowBytes hl), State.access_read hl,
    State.busRead_mbuf hb]

/-- The byte that a host write puts at place k. -/
theorem State.readByte_memWrite_leBytes {n k : Nat} (v : Word) (hk : k < n) :
    (s.memWrite o (leBytes v.toNat n)).readByte (o + k) = v.extractLsb' (8 * k) 8 := by
  rw [readByte_memWrite, length_leBytes, if_pos (by omega), Nat.add_sub_cancel_left, getD_leBytes hk]
  apply BitVec.eq_of_toNat_eq
  rw [toNat_extract_byte, BitVec.toNat_ofNat]

end

/-- Settles O49: a write is `MemWrite` of the data's bytes, a read the number of the bytes read. -/
theorem mbufBusAccessIsLittleEndian : Obligations.MbufBusAccessIsLittleEndian := by
  unfold Obligations.MbufBusAccessIsLittleEndian
  refine ⟨fun s w o v hb hl => ?_, fun s w o hb hl => ?_⟩
  · exact ⟨_, hostAccess_write_mbuf hb hl v, fun k hk => State.readByte_memWrite_leBytes (s := s) v hk,
      sameMbufOutside_of_mbuf_eq rfl rfl (length_leBytes _ _).le, rfl⟩
  · have hlen : (s.memRead o w.bytes).length ≤ 4 := (s.length_memRead _ _).trans_le w.bytes_le_four
    refine ⟨_, hostAccess_read_mbuf hb hl, fun k hk => ?_, fun k hk => ?_⟩
    · rw [extract_byte_ofNat_leInt hlen, State.getD_memRead hk]
    · rw [extract_byte_ofNat_leInt hlen]
      exact List.getD_eq_default _ _ ((s.length_memRead _ _).trans_le hk)

/-! ## What the host can learn (R215) -/

theorem State.readReg_publicView (s : State) (r : Reg) : s.publicView.readReg r = s.readReg r := by
  cases r <;> rfl

theorem State.busRead_publicView (s : State) (w : Width) (off : Nat) :
    s.publicView.busRead w off = s.busRead w off := by
  unfold busRead
  simp only [readReg_publicView]
  rfl

theorem State.legalAccess_publicView (s : State) (w : Width) (off : Nat) :
    s.publicView.legalAccess w off = s.legalAccess w off := rfl

/-- The answer to a host access depends on the public part of the state only. -/
theorem State.access_publicView_answer (s : State) (a : HostAccess) :
    (s.publicView.access a).2 = (s.access a).2 := by
  unfold access
  rw [legalAccess_publicView]
  split
  · cases a with
    | read w off => exact congrArg Response.readOk (s.busRead_publicView w off)
    | write w off v => rfl
  · rfl

theorem State.writeReg_publicView (s : State) (v : Word) (r : Reg) :
    (s.publicView.writeReg v r).publicView = (s.writeReg v r).publicView := by
  cases r <;> rfl

theorem State.writeBusy_publicView (s : State) (v : Word) (off : Nat) :
    (s.publicView.writeBusy v off).publicView = (s.writeBusy v off).publicView := by
  unfold writeBusy
  split <;> rfl

theorem State.writeIdle_publicView (s : State) (w : Width) (off : Nat) (v : Word) :
    (s.publicView.writeIdle w off v).publicView = (s.writeIdle w off v).publicView := by
  unfold writeIdle
  split
  · cases regAt off with
    | none => rfl
    | some r => exact s.writeReg_publicView v r
  · rfl

theorem State.busWrite_publicView (s : State) (w : Width) (off : Nat) (v : Word) :
    (s.publicView.busWrite w off v).publicView = (s.busWrite w off v).publicView := by
  cases hb : s.busy with
  | true => rw [busWrite_busy hb, busWrite_busy (s := s.publicView) hb, writeBusy_publicView]
  | false =>
    have hidle : s.publicView.busy = false := hb
    rw [busWrite, busWrite, hb, hidle]
    exact s.writeIdle_publicView w off v

/-- What a host access leaves of the public part depends on the public part only. -/
theorem State.access_publicView_state (s : State) (a : HostAccess) :
    (s.publicView.access a).1.publicView = (s.access a).1.publicView := by
  unfold access
  rw [legalAccess_publicView]
  split
  · cases a with
    | read w off => rfl
    | write w off v => exact s.busWrite_publicView w off v
  · rfl

namespace SamePublic

variable {s t : State}

theorem responses (h : SamePublic s t) : s.responses = t.responses :=
  (congrArg State.responses (h : s.publicView = t.publicView) :)

theorem windowBytes (h : SamePublic s t) : s.windowBytes = t.windowBytes :=
  (congrArg State.windowBytes (h : s.publicView = t.publicView) :)

theorem irq (h : SamePublic s t) : s.irq = t.irq :=
  (congrArg State.irq (h : s.publicView = t.publicView) :)

theorem withResponses (h : SamePublic s t) (l : List Response) :
    SamePublic { s with responses := l } { t with responses := l } :=
  (congrArg (fun u : State => { u with responses := l }) (h : s.publicView = t.publicView) :)

/-- The same access of two states of one public view has one answer. -/
theorem access_answer (h : SamePublic s t) (a : HostAccess) : (s.access a).2 = (t.access a).2 := by
  rw [← State.access_publicView_answer, h, State.access_publicView_answer]

/-- And it leaves them with one public view. -/
theorem access_state (h : SamePublic s t) (a : HostAccess) : SamePublic (s.access a).1 (t.access a).1 := by
  rw [SamePublic, ← State.access_publicView_state, h, State.access_publicView_state]

end SamePublic

/-- Settles O59: the answer and the public part of the next state are those of the access on the public view. -/
theorem hostAccessesRevealNoSecret : Obligations.HostAccessesRevealNoSecret := by
  unfold Obligations.HostAccessesRevealNoSecret
  intro s s' t a hsame h
  obtain ⟨hoff, rfl⟩ := hostAccess_cases h
  have hlog : s.responses ++ [(s.access a).2] = s'.responses ++ [(s'.access a).2] := by
    rw [hsame.responses, hsame.access_answer]
  have hnext := (hsame.access_state a).withResponses (s.responses ++ [(s.access a).2])
  rw [hsame.windowBytes] at hoff
  refine ⟨_, hostAccess_of_lt hoff, ?_⟩
  rw [← hlog]
  exact ⟨hnext, rfl, hnext.irq⟩

end Sys2Proof.Machine
